-- ==== Sys2Proof/Word.lean ====
section
/-! DEFINITION. The machine's two word types (00_scope.md R8, R10): a byte is 8 bits, a word 16 bits, both
unsigned. All other arithmetic on them stands with the operations that use it. -/

namespace Sys2Proof

/-- An 8-bit value: a register, a memory byte, an opcode (R8, R10). -/
abbrev Byte := BitVec 8

/-- A 16-bit value: an address, SP, pc or a register pair (R8, R10). -/
abbrev Word := BitVec 16

end Sys2Proof
end

