-- ==== Sys2Proof/Config.lean ====
section
/-! DEFINITION. What is fixed for one machine when it is constructed: the named parameters of 00_scope.md R9, each
with every value the spec allows, and whether a trace hook is registered (30_encoding.md R104). The defaults are
R9's. The spec leaves no result of an instruction open, so there is no free value here. -/

namespace Sys2Proof

/-- `STOP_LENGTH` (R9, D12): how many bytes the STOP instruction has. -/
inductive StopLength where
  | one
  | two
deriving DecidableEq, Repr

/-- `OVERLAY_TRIGGER` (R9, R61, D6): what ends the BIOS overlay. -/
inductive OverlayTrigger where
  /-- any `read_byte(0x0100)` clears `bios_mapped` -/
  | readAt0100
  /-- a step that starts with `pc` = 0x0100 clears it, before the opcode fetch -/
  | pcReaches0100
deriving DecidableEq, Repr

/-- `ROM_OVERSIZE_POLICY` (R9, R205, D11): what construction does with a ROM image longer than 32768 bytes. -/
inductive RomOversizePolicy where
  | refuse
  | truncate
deriving DecidableEq, Repr

/-- `RAM_INIT` (R9, R230, D28): the RAM regions at construction are zero, or inputs of the construction. -/
inductive RamInit where
  | zero
  | arbitrary
deriving DecidableEq, Repr

/-- `RESET_REGS` (R9, D9): the register values that construction and `reset()` set. -/
structure ResetRegs where
  a : Byte
  f : Byte
  b : Byte
  c : Byte
  d : Byte
  e : Byte
  h : Byte
  l : Byte
  sp : Word
  pc : Word
deriving DecidableEq, Repr

/-- The default of `RESET_REGS`: every register zero (R9, R39). -/
def ResetRegs.zero : ResetRegs :=
  { a := 0, f := 0, b := 0, c := 0, d := 0, e := 0, h := 0, l := 0, sp := 0, pc := 0 }

/-- One machine's configuration. -/
structure Config where
  /-- `CYCLES` (R9, R94, D13) as plain data: the opcodes whose cost differs from R94's default table, each with
  its cost; the first entry for an opcode counts -/
  cycles : List (Byte × Nat)
  stopLength : StopLength
  romOversize : RomOversizePolicy
  ramInit : RamInit
  overlayTrigger : OverlayTrigger
  resetRegs : ResetRegs
  /-- whether the host registered a trace hook at construction (R104) -/
  traceHook : Bool
deriving DecidableEq, Repr

/-- R9's default column. DESIGN CHOICE (log entry 7): no trace hook is registered. -/
def Config.specDefault : Config :=
  { cycles := []
    stopLength := .two
    romOversize := .refuse
    ramInit := .zero
    overlayTrigger := .readAt0100
    resetRegs := ResetRegs.zero
    traceHook := false }

end Sys2Proof
end

