-- ==== Sys2Proof/Syntax.lean ====
section
/-! DEFINITION. The instructions: one constructor for each row of spec/opcode_table.json (30_encoding.md R93), and the
names of their operands (00_scope.md R11, R19; 30_encoding.md R98). -/

namespace Sys2Proof

/-- The 8-bit registers an operand field can select (R98, `r` other than 110). F is no operand of an instruction. -/
inductive Reg8 where
  | b | c | d | e | h | l | a
deriving DecidableEq, Repr

/-- The 16-bit operands (R98, `pp`): three pair views and SP. -/
inductive Reg16 where
  | bc | de | hl | sp
deriving DecidableEq, Repr

/-- The instructions of R93. An argument is what the operand slice gives (30_encoding.md R92): `d8` an 8-bit
immediate, `d16` a 16-bit one. STOP keeps the byte it reads and ignores: `some` in its two-byte form, `none` in its
one-byte form (45_control.md R191). -/
inductive Instr where
  /-- 0x00 NOP (R190) -/
  | nop
  /-- 0x01 LD BC,d16 (R170) -/
  | ldBcD16 (d16 : Word)
  /-- 0x02 LD (BC),A (R171) -/
  | ldMemBcA
  /-- 0x03 INC BC (R150) -/
  | incBc
  /-- 0x04 INC B (R131) -/
  | incB
  /-- 0x05 DEC B (R133) -/
  | decB
  /-- 0x06 LD B,d8 (R175) -/
  | ldBD8 (d8 : Byte)
  /-- 0x07 RLCA (R160) -/
  | rlca
  /-- 0x09 ADD HL,BC (R152) -/
  | addHlBc
  /-- 0x0A LD A,(BC) (R173) -/
  | ldAMemBc
  /-- 0x0B DEC BC (R151) -/
  | decBc
  /-- 0x0C INC C (R131) -/
  | incC
  /-- 0x0D DEC C (R133) -/
  | decC
  /-- 0x0E LD C,d8 (R175) -/
  | ldCD8 (d8 : Byte)
  /-- 0x0F RRCA (R161) -/
  | rrca
  /-- 0x10 STOP (R191) -/
  | stop (ignored : Option Byte)
  /-- 0x11 LD DE,d16 (R170) -/
  | ldDeD16 (d16 : Word)
  /-- 0x12 LD (DE),A (R172) -/
  | ldMemDeA
  /-- 0x13 INC DE (R150) -/
  | incDe
  /-- 0x14 INC D (R131) -/
  | incD
  /-- 0x15 DEC D (R133) -/
  | decD
  /-- 0x16 LD D,d8 (R175) -/
  | ldDD8 (d8 : Byte)
  /-- 0x19 ADD HL,DE (R152) -/
  | addHlDe
  /-- 0x1A LD A,(DE) (R174) -/
  | ldAMemDe
  /-- 0x1B DEC DE (R151) -/
  | decDe
  /-- 0x1C INC E (R131) -/
  | incE
  /-- 0x1D DEC E (R133) -/
  | decE
  /-- 0x1E LD E,d8 (R175) -/
  | ldED8 (d8 : Byte)
  /-- 0x21 LD HL,d16 (R170) -/
  | ldHlD16 (d16 : Word)
  /-- 0x23 INC HL (R150) -/
  | incHl
  /-- 0x24 INC H (R131) -/
  | incH
  /-- 0x25 DEC H (R133) -/
  | decH
  /-- 0x26 LD H,d8 (R175) -/
  | ldHD8 (d8 : Byte)
  /-- 0x29 ADD HL,HL (R152) -/
  | addHlHl
  /-- 0x2B DEC HL (R151) -/
  | decHl
  /-- 0x2C INC L (R131) -/
  | incL
  /-- 0x2D DEC L (R133) -/
  | decL
  /-- 0x2E LD L,d8 (R175) -/
  | ldLD8 (d8 : Byte)
  /-- 0x31 LD SP,d16 (R170) -/
  | ldSpD16 (d16 : Word)
  /-- 0x33 INC SP (R150) -/
  | incSp
  /-- 0x34 INC (HL) (R132) -/
  | incMemHl
  /-- 0x35 DEC (HL) (R134) -/
  | decMemHl
  /-- 0x36 LD (HL),d8 (R176) -/
  | ldMemHlD8 (d8 : Byte)
  /-- 0x39 ADD HL,SP (R152) -/
  | addHlSp
  /-- 0x3B DEC SP (R151) -/
  | decSp
  /-- 0x3C INC A (R131) -/
  | incA
  /-- 0x3D DEC A (R133) -/
  | decA
  /-- 0x3E LD A,d8 (R175) -/
  | ldAD8 (d8 : Byte)
deriving DecidableEq, Repr

/-- INC r for each register operand (R131). -/
def Instr.incReg : Reg8 → Instr
  | .b => .incB
  | .c => .incC
  | .d => .incD
  | .e => .incE
  | .h => .incH
  | .l => .incL
  | .a => .incA

/-- DEC r for each register operand (R133). -/
def Instr.decReg : Reg8 → Instr
  | .b => .decB
  | .c => .decC
  | .d => .decD
  | .e => .decE
  | .h => .decH
  | .l => .decL
  | .a => .decA

/-- LD r,d8 for each register operand (R175). -/
def Instr.loadReg : Reg8 → Byte → Instr
  | .b, d8 => .ldBD8 d8
  | .c, d8 => .ldCD8 d8
  | .d, d8 => .ldDD8 d8
  | .e, d8 => .ldED8 d8
  | .h, d8 => .ldHD8 d8
  | .l, d8 => .ldLD8 d8
  | .a, d8 => .ldAD8 d8

/-- INC rr for each pair operand (R150). -/
def Instr.incPair : Reg16 → Instr
  | .bc => .incBc
  | .de => .incDe
  | .hl => .incHl
  | .sp => .incSp

/-- DEC rr for each pair operand (R151). -/
def Instr.decPair : Reg16 → Instr
  | .bc => .decBc
  | .de => .decDe
  | .hl => .decHl
  | .sp => .decSp

/-- ADD HL,rr for each pair operand (R152). -/
def Instr.addPair : Reg16 → Instr
  | .bc => .addHlBc
  | .de => .addHlDe
  | .hl => .addHlHl
  | .sp => .addHlSp

/-- LD rr,d16 for each pair operand (R170). -/
def Instr.loadPair : Reg16 → Word → Instr
  | .bc, d16 => .ldBcD16 d16
  | .de, d16 => .ldDeD16 d16
  | .hl, d16 => .ldHlD16 d16
  | .sp, d16 => .ldSpD16 d16

end Sys2Proof
end

