-- ==== Sys2Proof/WellFormed.lean ====
section
/-! DEFINITION. Which instructions a machine can hold. Every operand's range is its type's, so one check is left: the
STOP instruction has an operand byte exactly when `STOP_LENGTH` is 2 (30_encoding.md R90, 45_control.md R191). -/

namespace Sys2Proof

/-- The instruction is one that a machine with this `STOP_LENGTH` can fetch. -/
def Instr.wellFormed (n : StopLength) : Instr → Bool
  | .stop none => n == .one
  | .stop (some _) => n == .two
  | .nop | .ldBcD16 _ | .ldMemBcA | .incBc | .incB | .decB | .ldBD8 _ | .rlca | .addHlBc | .ldAMemBc | .decBc
  | .incC | .decC | .ldCD8 _ | .rrca | .ldDeD16 _ | .ldMemDeA | .incDe | .incD | .decD | .ldDD8 _ | .addHlDe
  | .ldAMemDe | .decDe | .incE | .decE | .ldED8 _ | .ldHlD16 _ | .incHl | .incH | .decH | .ldHD8 _ | .addHlHl
  | .decHl | .incL | .decL | .ldLD8 _ | .ldSpD16 _ | .incSp | .incMemHl | .decMemHl | .ldMemHlD8 _ | .addHlSp
  | .decSp | .incA | .decA | .ldAD8 _ => true

end Sys2Proof
end

