-- ==== Sys2Proof/Decode.lean ====
section
/-! DEFINITION. The opcode_dispatch_table and the instruction_decoder (30_encoding.md R90 to R99, R105, R107, R108),
total on any bytes, and after them an encoder. The table is written from the byte values of R93; the encoder is
written from the bit fields of R98 and of each instruction's own encoding line, so that "decode of encode" holds the
spec's two accounts of the encodings against each other. -/

namespace Sys2Proof

/-- `concat(h, l)` (00_scope.md R12). -/
def concat (h l : Byte) : Word := h ++ l

/-- `hi8(v)` (00_scope.md R12). -/
def hi8 (v : Word) : Byte := v.extractLsb' 8 8

/-- `lo8(v)` (00_scope.md R12). -/
def lo8 (v : Word) : Byte := v.extractLsb' 0 8

/-- The immediate `d8 = ops[0]` of an operand slice (R92). -/
def operandD8 (ops : List Byte) : Byte := ops.getD 0 0

/-- The immediate `d16 = concat(ops[1], ops[0])` of an operand slice (R92): the low byte comes first. -/
def operandD16 (ops : List Byte) : Word := concat (ops.getD 1 0) (ops.getD 0 0)

/-- A descriptor (R91). Its handler is named by the instruction it runs: `build` makes the instruction from the
operand slice, and the instruction's meaning stands in the machine; `none` marks the sentinel (R96). `tStates` is
the default of `CYCLES` for the opcode (R94). -/
structure Descriptor where
  opcode : Byte
  length : Nat
  tStates : Nat
  build : Option (List Byte → Instr)
  text : String

/-- The sentinel descriptor (R96): its length is 1 and it has no handler. -/
def sentinel (op : Byte) : Descriptor :=
  { opcode := op, length := 1, tStates := 0, build := none, text := "unassigned" }

/-- A descriptor of format F1 (R90). -/
def formatF1 (op : Byte) (t : Nat) (text : String) (i : Instr) : Descriptor :=
  { opcode := op, length := 1, tStates := t, build := some fun _ => i, text := text }

/-- A descriptor of format F2 (R90). -/
def formatF2 (op : Byte) (t : Nat) (text : String) (k : Byte → Instr) : Descriptor :=
  { opcode := op, length := 2, tStates := t, build := some fun ops => k (operandD8 ops), text := text }

/-- A descriptor of format F3 (R90). -/
def formatF3 (op : Byte) (t : Nat) (text : String) (k : Word → Instr) : Descriptor :=
  { opcode := op, length := 3, tStates := t, build := some fun ops => k (operandD16 ops), text := text }

/-- STOP's descriptor (R90, R191): format F1 or F2 as `STOP_LENGTH` says; its cost is always 0. -/
def stopDescriptor : StopLength → Descriptor
  | .one => formatF1 0x10#8 0 "STOP" (.stop none)
  | .two => formatF2 0x10#8 0 "STOP" fun b => .stop (some b)

/-- `TABLE` (R93, R94, R95, R105): the 48 admitted opcodes, and the sentinel in every other slot. -/
def table (n : StopLength) (op : Byte) : Descriptor :=
  match op with
  | 0x00#8 => formatF1 0x00#8 4 "NOP" .nop
  | 0x01#8 => formatF3 0x01#8 12 "LD BC,d16" .ldBcD16
  | 0x02#8 => formatF1 0x02#8 8 "LD (BC),A" .ldMemBcA
  | 0x03#8 => formatF1 0x03#8 8 "INC BC" .incBc
  | 0x04#8 => formatF1 0x04#8 4 "INC B" .incB
  | 0x05#8 => formatF1 0x05#8 4 "DEC B" .decB
  | 0x06#8 => formatF2 0x06#8 8 "LD B,d8" .ldBD8
  | 0x07#8 => formatF1 0x07#8 4 "RLCA" .rlca
  | 0x09#8 => formatF1 0x09#8 8 "ADD HL,BC" .addHlBc
  | 0x0A#8 => formatF1 0x0A#8 8 "LD A,(BC)" .ldAMemBc
  | 0x0B#8 => formatF1 0x0B#8 8 "DEC BC" .decBc
  | 0x0C#8 => formatF1 0x0C#8 4 "INC C" .incC
  | 0x0D#8 => formatF1 0x0D#8 4 "DEC C" .decC
  | 0x0E#8 => formatF2 0x0E#8 8 "LD C,d8" .ldCD8
  | 0x0F#8 => formatF1 0x0F#8 4 "RRCA" .rrca
  | 0x10#8 => stopDescriptor n
  | 0x11#8 => formatF3 0x11#8 12 "LD DE,d16" .ldDeD16
  | 0x12#8 => formatF1 0x12#8 8 "LD (DE),A" .ldMemDeA
  | 0x13#8 => formatF1 0x13#8 8 "INC DE" .incDe
  | 0x14#8 => formatF1 0x14#8 4 "INC D" .incD
  | 0x15#8 => formatF1 0x15#8 4 "DEC D" .decD
  | 0x16#8 => formatF2 0x16#8 8 "LD D,d8" .ldDD8
  | 0x19#8 => formatF1 0x19#8 8 "ADD HL,DE" .addHlDe
  | 0x1A#8 => formatF1 0x1A#8 8 "LD A,(DE)" .ldAMemDe
  | 0x1B#8 => formatF1 0x1B#8 8 "DEC DE" .decDe
  | 0x1C#8 => formatF1 0x1C#8 4 "INC E" .incE
  | 0x1D#8 => formatF1 0x1D#8 4 "DEC E" .decE
  | 0x1E#8 => formatF2 0x1E#8 8 "LD E,d8" .ldED8
  | 0x21#8 => formatF3 0x21#8 12 "LD HL,d16" .ldHlD16
  | 0x23#8 => formatF1 0x23#8 8 "INC HL" .incHl
  | 0x24#8 => formatF1 0x24#8 4 "INC H" .incH
  | 0x25#8 => formatF1 0x25#8 4 "DEC H" .decH
  | 0x26#8 => formatF2 0x26#8 8 "LD H,d8" .ldHD8
  | 0x29#8 => formatF1 0x29#8 8 "ADD HL,HL" .addHlHl
  | 0x2B#8 => formatF1 0x2B#8 8 "DEC HL" .decHl
  | 0x2C#8 => formatF1 0x2C#8 4 "INC L" .incL
  | 0x2D#8 => formatF1 0x2D#8 4 "DEC L" .decL
  | 0x2E#8 => formatF2 0x2E#8 8 "LD L,d8" .ldLD8
  | 0x31#8 => formatF3 0x31#8 12 "LD SP,d16" .ldSpD16
  | 0x33#8 => formatF1 0x33#8 8 "INC SP" .incSp
  | 0x34#8 => formatF1 0x34#8 8 "INC (HL)" .incMemHl
  | 0x35#8 => formatF1 0x35#8 8 "DEC (HL)" .decMemHl
  | 0x36#8 => formatF2 0x36#8 8 "LD (HL),d8" .ldMemHlD8
  | 0x39#8 => formatF1 0x39#8 8 "ADD HL,SP" .addHlSp
  | 0x3B#8 => formatF1 0x3B#8 8 "DEC SP" .decSp
  | 0x3C#8 => formatF1 0x3C#8 4 "INC A" .incA
  | 0x3D#8 => formatF1 0x3D#8 4 "DEC A" .decA
  | 0x3E#8 => formatF2 0x3E#8 8 "LD A,d8" .ldAD8
  | _ => sentinel op

/-- `CB_TABLE` (R97): 256 sentinels, which no fetch reaches, since 0xCB is itself a sentinel slot of `table`. -/
def cbTable (op : Byte) : Descriptor := sentinel op

/-- Whether the opcode has a handler (R93); the others hold the sentinel (R96). -/
def admitted (op : Byte) : Bool := (table .two op).build.isSome

/-- Why a list of bytes is no instruction. -/
inductive DecodeError where
  /-- the first byte selects the sentinel (R96) -/
  | unknownOpcode (op : Byte)
  /-- the list ends before the instruction does -/
  | truncated
deriving DecidableEq, Repr

/-- The instruction at the head of a list of bytes, and the bytes after it (R90 to R92, R99): the opcode alone gives
the length. -/
def decode (n : StopLength) : List Byte → Except DecodeError (Instr × List Byte)
  | [] => .error .truncated
  | op :: rest =>
    match (table n op).build with
    | none => .error (.unknownOpcode op)
    | some build =>
      if rest.length < (table n op).length - 1 then .error .truncated
      else .ok (build (rest.take ((table n op).length - 1)), rest.drop ((table n op).length - 1))

/-- The bytes of a number whose bit 0 is the least significant bit of the first byte, three of them (the longest
instruction's, R90); the bits at `nbits` and above read as 0. -/
def wordBytes (nbits w : Nat) : List Byte :=
  let v := w % 2 ^ nbits
  [BitVec.ofNat 8 v, BitVec.ofNat 8 (v / 256), BitVec.ofNat 8 (v / 65536)]

/-- The instruction the decoder, at the default `STOP_LENGTH`, reads from bits numbered as the opcode table does. -/
def decodeTableWord (nbits w : Nat) : Option Instr :=
  match decode Config.specDefault.stopLength (wordBytes nbits w) with
  | .ok (i, _) => some i
  | .error _ => none

/-! The encoder. -/

/-- The operand field `r` of a register (R98). -/
def fieldR : Reg8 → BitVec 3
  | .b => 0b000#3
  | .c => 0b001#3
  | .d => 0b010#3
  | .e => 0b011#3
  | .h => 0b100#3
  | .l => 0b101#3
  | .a => 0b111#3

/-- The operand field `r` of the memory operand (HL) (R98). -/
def fieldMemHl : BitVec 3 := 0b110#3

/-- The operand field `pp` of a pair (R98). -/
def fieldPP : Reg16 → BitVec 2
  | .bc => 0b00#2
  | .de => 0b01#2
  | .hl => 0b10#2
  | .sp => 0b11#2

/-- An opcode byte from its fields `x` = 00, `y` and `z` (R90). -/
def opcodeYZ (y z : BitVec 3) : Byte := 0b00#2 ++ y ++ z

/-- An opcode byte from its fields `x` = 00, `pp`, `q` and `z` (R90). -/
def opcodePQZ (pp : BitVec 2) (q : BitVec 1) (z : BitVec 3) : Byte := 0b00#2 ++ pp ++ q ++ z

/-- The opcode byte, from the encoding line of each instruction's rule. -/
def Instr.opcode : Instr → Byte
  | .nop => opcodeYZ 0b000#3 0b000#3
  | .ldBcD16 _ => opcodePQZ (fieldPP .bc) 0#1 0b001#3
  | .ldMemBcA => opcodePQZ (fieldPP .bc) 0#1 0b010#3
  | .incBc => opcodePQZ (fieldPP .bc) 0#1 0b011#3
  | .incB => opcodeYZ (fieldR .b) 0b100#3
  | .decB => opcodeYZ (fieldR .b) 0b101#3
  | .ldBD8 _ => opcodeYZ (fieldR .b) 0b110#3
  | .rlca => opcodeYZ 0b000#3 0b111#3
  | .addHlBc => opcodePQZ (fieldPP .bc) 1#1 0b001#3
  | .ldAMemBc => opcodePQZ (fieldPP .bc) 1#1 0b010#3
  | .decBc => opcodePQZ (fieldPP .bc) 1#1 0b011#3
  | .incC => opcodeYZ (fieldR .c) 0b100#3
  | .decC => opcodeYZ (fieldR .c) 0b101#3
  | .ldCD8 _ => opcodeYZ (fieldR .c) 0b110#3
  | .rrca => opcodeYZ 0b001#3 0b111#3
  | .stop _ => opcodeYZ 0b010#3 0b000#3
  | .ldDeD16 _ => opcodePQZ (fieldPP .de) 0#1 0b001#3
  | .ldMemDeA => opcodePQZ (fieldPP .de) 0#1 0b010#3
  | .incDe => opcodePQZ (fieldPP .de) 0#1 0b011#3
  | .incD => opcodeYZ (fieldR .d) 0b100#3
  | .decD => opcodeYZ (fieldR .d) 0b101#3
  | .ldDD8 _ => opcodeYZ (fieldR .d) 0b110#3
  | .addHlDe => opcodePQZ (fieldPP .de) 1#1 0b001#3
  | .ldAMemDe => opcodePQZ (fieldPP .de) 1#1 0b010#3
  | .decDe => opcodePQZ (fieldPP .de) 1#1 0b011#3
  | .incE => opcodeYZ (fieldR .e) 0b100#3
  | .decE => opcodeYZ (fieldR .e) 0b101#3
  | .ldED8 _ => opcodeYZ (fieldR .e) 0b110#3
  | .ldHlD16 _ => opcodePQZ (fieldPP .hl) 0#1 0b001#3
  | .incHl => opcodePQZ (fieldPP .hl) 0#1 0b011#3
  | .incH => opcodeYZ (fieldR .h) 0b100#3
  | .decH => opcodeYZ (fieldR .h) 0b101#3
  | .ldHD8 _ => opcodeYZ (fieldR .h) 0b110#3
  | .addHlHl => opcodePQZ (fieldPP .hl) 1#1 0b001#3
  | .decHl => opcodePQZ (fieldPP .hl) 1#1 0b011#3
  | .incL => opcodeYZ (fieldR .l) 0b100#3
  | .decL => opcodeYZ (fieldR .l) 0b101#3
  | .ldLD8 _ => opcodeYZ (fieldR .l) 0b110#3
  | .ldSpD16 _ => opcodePQZ (fieldPP .sp) 0#1 0b001#3
  | .incSp => opcodePQZ (fieldPP .sp) 0#1 0b011#3
  | .incMemHl => opcodeYZ fieldMemHl 0b100#3
  | .decMemHl => opcodeYZ fieldMemHl 0b101#3
  | .ldMemHlD8 _ => opcodeYZ fieldMemHl 0b110#3
  | .addHlSp => opcodePQZ (fieldPP .sp) 1#1 0b001#3
  | .decSp => opcodePQZ (fieldPP .sp) 1#1 0b011#3
  | .incA => opcodeYZ (fieldR .a) 0b100#3
  | .decA => opcodeYZ (fieldR .a) 0b101#3
  | .ldAD8 _ => opcodeYZ (fieldR .a) 0b110#3

/-- The operand bytes, in address order (R90, R92): a 16-bit immediate has its low byte first. -/
def Instr.operandBytes : Instr → List Byte
  | .ldBcD16 v | .ldDeD16 v | .ldHlD16 v | .ldSpD16 v => [lo8 v, hi8 v]
  | .ldBD8 v | .ldCD8 v | .ldDD8 v | .ldED8 v | .ldHD8 v | .ldLD8 v | .ldMemHlD8 v | .ldAD8 v => [v]
  | .stop (some v) => [v]
  | .stop none => []
  | .nop | .ldMemBcA | .incBc | .incB | .decB | .rlca | .addHlBc | .ldAMemBc | .decBc | .incC | .decC | .rrca
  | .ldMemDeA | .incDe | .incD | .decD | .addHlDe | .ldAMemDe | .decDe | .incE | .decE | .incHl | .incH
  | .decH | .addHlHl | .decHl | .incL | .decL | .incSp | .incMemHl | .decMemHl | .addHlSp | .decSp | .incA
  | .decA => []

/-- The bytes of an instruction, the opcode first (R90). -/
def encode (i : Instr) : List Byte := i.opcode :: i.operandBytes

end Sys2Proof
end

