-- ==== Sys2Proof/Machine/State.lean ====
section
/-! DEFINITION. The state record of 10_state.md R20, as plain data, and the machine after construction by `new()`
(R39, 70_reset_and_hazards.md R230). -/

namespace Sys2Proof.Machine

/-- The five error kinds (60_exceptions.md R200). No instruction raises one. They stand as data in `run` and in the
results of host calls; `step` never answers `Host.Outcome.fault`, because the spec gives the state after every error
a step can raise. -/
inductive Fault where
  /-- Raised by a step whose opcode selects the sentinel; records the opcode and its address (R201). Safe: the core
  halts, as the spec says. -/
  | unknownInstruction (op : Byte) (addr : Word)
  /-- Raised by construction when the BIOS image is not 256 bytes long (R202). Safe: no core is built. -/
  | invalidBios
  /-- Raised by a host access to an address of 0x10000 or more, and by nothing else (R203, 20_memory.md R67). Safe:
  the core halts. -/
  | addressOutOfBounds (a : Nat)
  /-- Raised by `fetch_region` for a span that is not inside one array (R204). Safe: the call fails and no state
  changes. -/
  | invalidRegionSpan (a : Word) (n : Nat)
  /-- Raised by construction when the ROM image is longer than 32768 bytes and the policy is to refuse (R205). Safe:
  no core is built. -/
  | romTooLarge (n : Nat)
deriving DecidableEq, Repr

/-- Why an instruction has no meaning. -/
inductive Refusal where
  /-- Raised by an arm of `exec` whose instruction is not modelled yet; no arm is left that does. Safe. -/
  | notModelled (mnemonic : String)
deriving DecidableEq, Repr

/-- The reason of a halt (10_state.md R35). -/
inductive HaltReason where
  | stop
  | fault (e : Fault)
deriving DecidableEq, Repr

/-- The run state (R35). -/
inductive RunState where
  | running
  | halted (r : HaltReason)
deriving DecidableEq, Repr

/-- The contents of one backing array: its bytes other than 0x00, each with its index, the indexes strictly rising.
An index that is not listed reads as 0x00, the construction value of 70_reset_and_hazards.md R230 (DESIGN CHOICE, log
entry 10). -/
abbrev Memory := List Host.Cell

/-- The indexes rise strictly from `lo` on and stay below `size`, and no listed byte is 0x00. -/
def memoryRises (size : Nat) : Nat → Memory → Bool
  | _, [] => true
  | lo, (i, v) :: m => decide (lo ≤ i) && decide (i < size) && v != 0 && memoryRises size (i + 1) m

/-- The canonical form of an array of `size` bytes: equal contents are equal data. -/
def Memory.wf (size : Nat) (m : Memory) : Bool := memoryRises size 0 m

/-- The state of one core (10_state.md R20). A register pair is a view over its halves (R23, R38), so the halves are
what is stored. `config` is the model's own field: the configuration the core was constructed with (00_scope.md R9).
DESIGN CHOICE (log entry 1): it stands here because a step takes the state alone; nothing writes it. -/
structure State where
  a : Byte
  f : Byte
  b : Byte
  c : Byte
  d : Byte
  e : Byte
  h : Byte
  l : Byte
  sp : Word
  pc : Word
  bios : Memory
  rom : Memory
  vram : Memory
  eram : Memory
  wram : Memory
  oam : Memory
  hram : Memory
  biosMapped : Bool
  run : RunState
  cycles : Nat
  config : Config
deriving DecidableEq, Repr

/-- The machine right after construction by `new()` with the default configuration: R39's first column, with no
image (R230, R231). DESIGN CHOICE (log entry 2): of the three constructors, the one without images. The host's
`reset()`, which keeps memory, is `resetCore`. -/
def State.reset : State :=
  { a := 0, f := 0, b := 0, c := 0, d := 0, e := 0, h := 0, l := 0, sp := 0, pc := 0
    bios := [], rom := [], vram := [], eram := [], wram := [], oam := [], hram := []
    biosMapped := false
    run := .running
    cycles := 0
    config := Config.specDefault }

end Sys2Proof.Machine
end

