-- ==== Sys2Proof/Machine/Ops.lean ====
section
/-! DEFINITION. The named operations over memory, the overlay, the run state and the cycle accumulator: the
memory_address_decoder (20_memory.md R50 to R67), the costs (30_encoding.md R94), the end of an instruction (R100),
raising an error (60_exceptions.md R201) and `reset()`, the only way back (70_reset_and_hazards.md R234). -/

namespace Sys2Proof.Machine

/-! One backing array. -/

/-- The byte at an index; an index that is not listed reads as 0x00. -/
def Memory.read : Memory → Nat → Byte
  | [], _ => 0
  | (j, v) :: m, i => if j = i then v else Memory.read m i

/-- A list with the cell put in front, unless its byte is what an unlisted index reads as. -/
def Memory.cons (i : Nat) (v : Byte) (m : Memory) : Memory := if v = 0 then m else (i, v) :: m

/-- The contents with the byte at an index replaced, in canonical form. -/
def Memory.write : Memory → Nat → Byte → Memory
  | [], i, v => Memory.cons i v []
  | (j, w) :: m, i, v =>
    if i < j then Memory.cons i v ((j, w) :: m)
    else if i = j then Memory.cons i v m
    else (j, w) :: Memory.write m i v

/-- The contents that hold an image's bytes from index `i` on, and 0x00 elsewhere. -/
def Memory.ofImageFrom (i : Nat) : List Byte → Memory
  | [] => []
  | v :: vs => Memory.cons i v (Memory.ofImageFrom (i + 1) vs)

/-- The contents of an array of `size` bytes that holds an image from index 0 on, zero padded (R230). -/
def Memory.ofImage (size : Nat) (image : List Byte) : Memory := Memory.ofImageFrom 0 (image.take size)

/-! The seven arrays and the address decoder. -/

/-- The backing arrays (R50). -/
inductive Region where
  | bios | rom | vram | eram | wram | oam | hram
deriving DecidableEq, Repr

/-- An array's size in bytes (00_scope.md R8). -/
def regionSize : Region → Nat
  | .bios => 256
  | .rom => 32768
  | .vram => 8192
  | .eram => 8192
  | .wram => 8192
  | .oam => 256
  | .hram => 128

/-- Whether a write reaches the array (R51, R63). -/
def regionWritable : Region → Bool
  | .bios => false
  | .rom => false
  | .vram => true
  | .eram => true
  | .wram => true
  | .oam => true
  | .hram => true

/-- What an address decodes to: an index of an array, or one of the two ranges that no array backs (R51). -/
inductive Target where
  | cell (r : Region) (i : Nat)
  | oamTail
  | io
deriving DecidableEq, Repr

/-- `decode(a)` (R51): it reads `bios_mapped` and nothing else. -/
def decodeAddr (biosMapped : Bool) (a : Word) : Target :=
  if a.toNat < 0x0100 then (if biosMapped then .cell .bios a.toNat else .cell .rom a.toNat)
  else if a.toNat < 0x8000 then .cell .rom a.toNat
  else if a.toNat < 0xA000 then .cell .vram (a &&& 0x1FFF#16).toNat
  else if a.toNat < 0xC000 then .cell .eram (a &&& 0x1FFF#16).toNat
  else if a.toNat < 0xFE00 then .cell .wram (a &&& 0x1FFF#16).toNat
  else if a.toNat < 0xFEA0 then .cell .oam (a &&& 0x00FF#16).toNat
  else if a.toNat < 0xFF00 then .oamTail
  else if a.toNat < 0xFF80 then .io
  else .cell .hram (a &&& 0x007F#16).toNat

/-- One array's contents. -/
def State.array (s : State) : Region → Memory
  | .bios => s.bios
  | .rom => s.rom
  | .vram => s.vram
  | .eram => s.eram
  | .wram => s.wram
  | .oam => s.oam
  | .hram => s.hram

/-- The state with one array's contents replaced. -/
def State.setArray (s : State) (r : Region) (m : Memory) : State :=
  match r with
  | .bios => { s with bios := m }
  | .rom => { s with rom := m }
  | .vram => { s with vram := m }
  | .eram => { s with eram := m }
  | .wram => { s with wram := m }
  | .oam => { s with oam := m }
  | .hram => { s with hram := m }

/-! The access primitives. -/

/-- The value of R51's read column: the byte an address reads as, without the read's side effect. -/
def State.peek (s : State) (addr : Word) : Byte :=
  match decodeAddr s.biosMapped addr with
  | .cell r i => Memory.read (s.array r) i
  | .oamTail => 0
  | .io => 0

/-- `disable_bios()` (70_reset_and_hazards.md R242): the overlay ends; nothing sets it again. -/
def disableBios (s : State) : State := { s with biosMapped := false }

/-- The only side effect of a read (R61): at 0x0100, under the read trigger, the overlay ends. -/
def readTrigger (addr : Word) (s : State) : State :=
  if s.config.overlayTrigger = .readAt0100 ∧ addr = 0x0100#16 then disableBios s else s

/-- `read_byte(a)` (R62): the byte, and the state after the read. -/
def readByte (s : State) (addr : Word) : Byte × State := (s.peek addr, readTrigger addr s)

/-- `write_byte(a, v)` (R63): a write to Bios, Rom, OamTail or Io changes no state. -/
def writeByte (s : State) (addr : Word) (v : Byte) : State :=
  match decodeAddr s.biosMapped addr with
  | .cell r i => if regionWritable r then s.setArray r (Memory.write (s.array r) i v) else s
  | .oamTail => s
  | .io => s

/-- `read_short(a)` (R64): two byte reads, the low byte first; the second address wraps. -/
def readShort (s : State) (addr : Word) : Word × State :=
  let lo := readByte s addr
  let hi := readByte lo.2 (addr + 1)
  (concat hi.1 lo.1, hi.2)

/-- `write_short(a, v)` (R65): two byte writes, the low byte first; the second address wraps. -/
def writeShort (s : State) (addr : Word) (v : Word) : State :=
  writeByte (writeByte s addr (lo8 v)) (addr + 1) (hi8 v)

/-! Costs and the end of an instruction. -/

/-- `CYCLES[op]` (30_encoding.md R94): R94's default, unless the configuration overrides it. -/
def cyclesOf (cfg : Config) (op : Byte) : Nat :=
  match cfg.cycles.lookup op with
  | some t => t
  | none => (table cfg.stopLength op).tStates

/-- The T-states the handler of an instruction returns (R94). STOP returns 0 whatever `CYCLES` says (45_control.md
R191; DESIGN CHOICE, log entry 6, where an override names STOP). -/
def instrCycles (cfg : Config) (i : Instr) : Nat :=
  match i with
  | .stop _ => 0
  | i => cyclesOf cfg i.opcode

/-- The end of a step whose handler returned `t` (R100): `cycles` grows by `t`, and `t` = 0 halts with Stop. -/
def retire (t : Nat) (s : State) : State :=
  if t = 0 then { s with cycles := s.cycles + t, run := .halted .stop }
  else { s with cycles := s.cycles + t }

/-- The outcome of a handler that left the state `s` and returned `t`. -/
def complete (t : Nat) (s : State) : Host.Outcome State Fault Refusal := .next (retire t s)

/-! Errors and reset. -/

/-- An error that halts the core (60_exceptions.md R201, R203, R209): only `run` is written. There is no trap entry:
nothing is saved, no mode, mask or vector changes and no control is transferred. -/
def raiseFault (e : Fault) (s : State) : State := { s with run := .halted (.fault e) }

/-- `reset()` (70_reset_and_hazards.md R234): the registers take `RESET_REGS`, `cycles` is 0, the core is Running;
memory and `bios_mapped` stay. It is the only return from a halt (60_exceptions.md R210, R217). -/
def resetCore (s : State) : State :=
  { s with
    a := s.config.resetRegs.a
    f := s.config.resetRegs.f &&& 0xF0#8
    b := s.config.resetRegs.b
    c := s.config.resetRegs.c
    d := s.config.resetRegs.d
    e := s.config.resetRegs.e
    h := s.config.resetRegs.h
    l := s.config.resetRegs.l
    sp := s.config.resetRegs.sp
    pc := s.config.resetRegs.pc
    cycles := 0
    run := .running }

end Sys2Proof.Machine
end

