-- ==== Sys2Proof/Machine/Operands.lean ====
section
/-! DEFINITION. The register file (10_state.md R21 to R28, 30_encoding.md R109): the operand registers, the pair views
over them, F and AF, and the memory operand (HL) (44_loads.md R177). -/

namespace Sys2Proof.Machine

/-- `x[r]` for an operand register (00_scope.md R11). -/
def State.reg8 (s : State) : Reg8 → Byte
  | .b => s.b
  | .c => s.c
  | .d => s.d
  | .e => s.e
  | .h => s.h
  | .l => s.l
  | .a => s.a

/-- `x[r] <- v` for an operand register: it changes that register only (R24). -/
def State.setReg8 (s : State) (r : Reg8) (v : Byte) : State :=
  match r with
  | .b => { s with b := v }
  | .c => { s with c := v }
  | .d => { s with d := v }
  | .e => { s with e := v }
  | .h => { s with h := v }
  | .l => { s with l := v }
  | .a => { s with a := v }

/-- `x[rr]` (R23): in a pair the first-named register is the high byte. -/
def State.reg16 (s : State) : Reg16 → Word
  | .bc => concat s.b s.c
  | .de => concat s.d s.e
  | .hl => concat s.h s.l
  | .sp => s.sp

/-- `x[rr] <- v` (R24): both halves at once. -/
def State.setReg16 (s : State) (rr : Reg16) (v : Word) : State :=
  match rr with
  | .bc => { s with b := hi8 v, c := lo8 v }
  | .de => { s with d := hi8 v, e := lo8 v }
  | .hl => { s with h := hi8 v, l := lo8 v }
  | .sp => { s with sp := v }

/-- `x[F]` (R25): bits 3 to 0 read 0. -/
def State.readF (s : State) : Byte := s.f &&& 0xF0#8

/-- `x[F] <- v` (R25): every write to F stores `v AND 0xF0`. -/
def State.writeF (s : State) (v : Byte) : State := { s with f := v &&& 0xF0#8 }

/-- `x[AF]` (R23). -/
def State.readAF (s : State) : Word := concat s.a s.readF

/-- `x[AF] <- v` (R24, R25). -/
def State.writeAF (s : State) (v : Word) : State := State.writeF { s with a := hi8 v } (lo8 v)

/-- `pc <- v`, the host's write (70_reset_and_hazards.md R241). -/
def State.setPc (s : State) (v : Word) : State := { s with pc := v }

/-! The operand forms of the handlers: each answers the state it leaves, with the value it reads where it reads one. -/

/-- A read of the memory byte at a pair, unmodified (44_loads.md R177). -/
def readIndirect (s : State) (rr : Reg16) : Byte × State := readByte s (s.reg16 rr)

/-- A write of the memory byte at a pair, unmodified (44_loads.md R177). -/
def writeIndirect (s : State) (rr : Reg16) (v : Byte) : State := writeByte s (s.reg16 rr) v

end Sys2Proof.Machine
end

