-- ==== Sys2Proof/Machine/Flags.lean ====
section
/-! DEFINITION. The flag register (10_state.md R29 to R31) and every flag computation: the ALU functions, which are
pure (30_encoding.md R111). Arithmetic is done exactly on naturals and narrowed at the end (00_scope.md R10). -/

namespace Sys2Proof.Machine

/-- The four flags (00_scope.md R18). -/
inductive Flag where
  | z | n | h | c
deriving DecidableEq, Repr

/-- The bit of F that a flag is (R29). -/
def flagBit : Flag → Nat
  | .z => 7
  | .n => 6
  | .h => 5
  | .c => 4

/-- The mask of a flag in F (R29). -/
def flagMask (fl : Flag) : Byte := BitVec.twoPow 8 (flagBit fl)

/-- One flag as a boolean. -/
def State.flag (s : State) (fl : Flag) : Bool := s.f.getLsbD (flagBit fl)

/-- `set(flag, b)` (R30): the named bit, and no other; as every write to F it keeps the low nibble zero (R25). -/
def State.setFlag (s : State) (fl : Flag) (on : Bool) : State :=
  s.writeF (if on then s.f ||| flagMask fl else s.f &&& ~~~(flagMask fl))

/-- `enable(flag)` (R30). -/
def State.enableFlag (s : State) (fl : Flag) : State := s.setFlag fl true

/-- `disable(flag)` (R30). -/
def State.disableFlag (s : State) (fl : Flag) : State := s.setFlag fl false

/-- Z, N and H written in one step, C kept: the form of INC and DEC (R31). -/
def State.setZNH (s : State) (z n h : Bool) : State := ((s.setFlag .z z).setFlag .n n).setFlag .h h

/-- N, H and C written in one step, Z kept: the form of ADD HL,rr (R31). -/
def State.setNHC (s : State) (n h c : Bool) : State := ((s.setFlag .n n).setFlag .h h).setFlag .c c

/-- All four written in one step: the form of the rotates (R31). -/
def State.setZNHC (s : State) (z n h c : Bool) : State := (s.setNHC n h c).setFlag .z z

/-- `alu_inc8` (41_inc_dec8.md R130): result, Z, H. -/
def aluInc8 (v : Byte) : Byte × Bool × Bool :=
  let res := BitVec.ofNat 8 (v.toNat + 1)
  (res, res == 0, v.toNat % 16 == 0xF)

/-- `alu_dec8` (41_inc_dec8.md R135): result, Z, H. -/
def aluDec8 (v : Byte) : Byte × Bool × Bool :=
  let res := BitVec.ofNat 8 (v.toNat + 0xFF)
  (res, res == 0, v.toNat % 16 == 0)

/-- `alu_add16` (42_alu16.md R153): result, H, C, the carries from the operands and the exact sum. -/
def aluAdd16 (x y : Word) : Word × Bool × Bool :=
  let sum := x.toNat + y.toNat
  (BitVec.ofNat 16 sum, decide (x.toNat % 0x1000 + y.toNat % 0x1000 > 0xFFF), decide (sum > 0xFFFF))

/-- `alu_rlc8` (43_rotate.md R162): result, C. -/
def aluRlc8 (v : Byte) : Byte × Bool :=
  let bit := v.toNat / 0x80
  (BitVec.ofNat 8 (v.toNat * 2 % 0x100 + bit), bit == 1)

/-- `alu_rrc8` (43_rotate.md R163): result, C. -/
def aluRrc8 (v : Byte) : Byte × Bool :=
  let bit := v.toNat % 2
  (BitVec.ofNat 8 (v.toNat / 2 + bit * 0x80), bit == 1)

/-- `(x + 1) mod 2^16` (42_alu16.md R150). -/
def aluInc16 (v : Word) : Word := BitVec.ofNat 16 (v.toNat + 1)

/-- `(x + 0xFFFF) mod 2^16` (42_alu16.md R151). -/
def aluDec16 (v : Word) : Word := BitVec.ofNat 16 (v.toNat + 0xFFFF)

end Sys2Proof.Machine
end

