-- ==== Sys2Proof/Machine/Alu16.lean ====
section
/-! DEFINITION. 16-bit increment, decrement and add (42_alu16.md R150 to R152). -/

namespace Sys2Proof.Machine

/-- INC rr (R150): no flag is written. -/
def incReg16 (rr : Reg16) (s : State) : State := s.setReg16 rr (aluInc16 (s.reg16 rr))

/-- DEC rr (R151): no flag is written. -/
def decReg16 (rr : Reg16) (s : State) : State := s.setReg16 rr (aluDec16 (s.reg16 rr))

/-- ADD HL,rr (R152): both operands are read before HL is written; Z is kept. -/
def addHl (rr : Reg16) (s : State) : State :=
  let x := aluAdd16 (s.reg16 .hl) (s.reg16 rr)
  (s.setReg16 .hl x.1).setNHC false x.2.1 x.2.2

/-- INC BC, 0x03 (R150). -/
def execIncBc (s : State) : Host.Outcome State Fault Refusal :=
  complete (instrCycles s.config .incBc) (incReg16 .bc s)

/-- INC DE, 0x13 (R150). -/
def execIncDe (s : State) : Host.Outcome State Fault Refusal :=
  complete (instrCycles s.config .incDe) (incReg16 .de s)

/-- INC HL, 0x23 (R150). -/
def execIncHl (s : State) : Host.Outcome State Fault Refusal :=
  complete (instrCycles s.config .incHl) (incReg16 .hl s)

/-- INC SP, 0x33 (R150). -/
def execIncSp (s : State) : Host.Outcome State Fault Refusal :=
  complete (instrCycles s.config .incSp) (incReg16 .sp s)

/-- DEC BC, 0x0B (R151). -/
def execDecBc (s : State) : Host.Outcome State Fault Refusal :=
  complete (instrCycles s.config .decBc) (decReg16 .bc s)

/-- DEC DE, 0x1B (R151). -/
def execDecDe (s : State) : Host.Outcome State Fault Refusal :=
  complete (instrCycles s.config .decDe) (decReg16 .de s)

/-- DEC HL, 0x2B (R151). -/
def execDecHl (s : State) : Host.Outcome State Fault Refusal :=
  complete (instrCycles s.config .decHl) (decReg16 .hl s)

/-- DEC SP, 0x3B (R151). -/
def execDecSp (s : State) : Host.Outcome State Fault Refusal :=
  complete (instrCycles s.config .decSp) (decReg16 .sp s)

/-- ADD HL,BC, 0x09 (R152). -/
def execAddHlBc (s : State) : Host.Outcome State Fault Refusal :=
  complete (instrCycles s.config .addHlBc) (addHl .bc s)

/-- ADD HL,DE, 0x19 (R152). -/
def execAddHlDe (s : State) : Host.Outcome State Fault Refusal :=
  complete (instrCycles s.config .addHlDe) (addHl .de s)

/-- ADD HL,HL, 0x29 (R152). -/
def execAddHlHl (s : State) : Host.Outcome State Fault Refusal :=
  complete (instrCycles s.config .addHlHl) (addHl .hl s)

/-- ADD HL,SP, 0x39 (R152). -/
def execAddHlSp (s : State) : Host.Outcome State Fault Refusal :=
  complete (instrCycles s.config .addHlSp) (addHl .sp s)

end Sys2Proof.Machine
end

