-- ==== Sys2Proof/Machine/Control.lean ====
section
/-! DEFINITION. NOP and STOP (45_control.md R190, R191). The sentinel (R192) is no instruction: a step takes it (Step.lean). -/

namespace Sys2Proof.Machine

/-- NOP, 0x00 (R190). -/
def execNop (s : State) : Host.Outcome State Fault Refusal :=
  complete (instrCycles s.config .nop) s

/-- STOP, 0x10 (R191): no register or memory byte changes; the count 0 makes the loop halt. The operand byte, where
there is one, is ignored. -/
def execStop (ignored : Option Byte) (s : State) : Host.Outcome State Fault Refusal :=
  complete (instrCycles s.config (.stop ignored)) s

end Sys2Proof.Machine
end

