-- ==== Sys2Proof/Machine/IncDec8.lean ====
section
/-! DEFINITION. 8-bit increment and decrement (41_inc_dec8.md R131 to R134). -/

namespace Sys2Proof.Machine

/-- INC r on a register (R131): C is kept. -/
def incReg8 (r : Reg8) (s : State) : State :=
  let x := aluInc8 (s.reg8 r)
  (s.setReg8 r x.1).setZNH x.2.1 false x.2.2

/-- DEC r on a register (R133): C is kept. -/
def decReg8 (r : Reg8) (s : State) : State :=
  let x := aluDec8 (s.reg8 r)
  (s.setReg8 r x.1).setZNH x.2.1 true x.2.2

/-- INC on the memory byte at HL (R132): the flags come from the byte read, whether or not the write lands. -/
def incMem (s : State) : State :=
  let v := readIndirect s .hl
  let x := aluInc8 v.1
  (writeIndirect v.2 .hl x.1).setZNH x.2.1 false x.2.2

/-- DEC on the memory byte at HL (R134): the flags come from the byte read, whether or not the write lands. -/
def decMem (s : State) : State :=
  let v := readIndirect s .hl
  let x := aluDec8 v.1
  (writeIndirect v.2 .hl x.1).setZNH x.2.1 true x.2.2

/-- INC B, 0x04 (R131). -/
def execIncB (s : State) : Host.Outcome State Fault Refusal :=
  complete (instrCycles s.config .incB) (incReg8 .b s)

/-- INC C, 0x0C (R131). -/
def execIncC (s : State) : Host.Outcome State Fault Refusal :=
  complete (instrCycles s.config .incC) (incReg8 .c s)

/-- INC D, 0x14 (R131). -/
def execIncD (s : State) : Host.Outcome State Fault Refusal :=
  complete (instrCycles s.config .incD) (incReg8 .d s)

/-- INC E, 0x1C (R131). -/
def execIncE (s : State) : Host.Outcome State Fault Refusal :=
  complete (instrCycles s.config .incE) (incReg8 .e s)

/-- INC H, 0x24 (R131). -/
def execIncH (s : State) : Host.Outcome State Fault Refusal :=
  complete (instrCycles s.config .incH) (incReg8 .h s)

/-- INC L, 0x2C (R131). -/
def execIncL (s : State) : Host.Outcome State Fault Refusal :=
  complete (instrCycles s.config .incL) (incReg8 .l s)

/-- INC A, 0x3C (R131). -/
def execIncA (s : State) : Host.Outcome State Fault Refusal :=
  complete (instrCycles s.config .incA) (incReg8 .a s)

/-- INC (HL), 0x34 (R132). -/
def execIncMemHl (s : State) : Host.Outcome State Fault Refusal :=
  complete (instrCycles s.config .incMemHl) (incMem s)

/-- DEC B, 0x05 (R133). -/
def execDecB (s : State) : Host.Outcome State Fault Refusal :=
  complete (instrCycles s.config .decB) (decReg8 .b s)

/-- DEC C, 0x0D (R133). -/
def execDecC (s : State) : Host.Outcome State Fault Refusal :=
  complete (instrCycles s.config .decC) (decReg8 .c s)

/-- DEC D, 0x15 (R133). -/
def execDecD (s : State) : Host.Outcome State Fault Refusal :=
  complete (instrCycles s.config .decD) (decReg8 .d s)

/-- DEC E, 0x1D (R133). -/
def execDecE (s : State) : Host.Outcome State Fault Refusal :=
  complete (instrCycles s.config .decE) (decReg8 .e s)

/-- DEC H, 0x25 (R133). -/
def execDecH (s : State) : Host.Outcome State Fault Refusal :=
  complete (instrCycles s.config .decH) (decReg8 .h s)

/-- DEC L, 0x2D (R133). -/
def execDecL (s : State) : Host.Outcome State Fault Refusal :=
  complete (instrCycles s.config .decL) (decReg8 .l s)

/-- DEC A, 0x3D (R133). -/
def execDecA (s : State) : Host.Outcome State Fault Refusal :=
  complete (instrCycles s.config .decA) (decReg8 .a s)

/-- DEC (HL), 0x35 (R134). -/
def execDecMemHl (s : State) : Host.Outcome State Fault Refusal :=
  complete (instrCycles s.config .decMemHl) (decMem s)

end Sys2Proof.Machine
end

