-- ==== Sys2Proof/Machine/Load.lean ====
section
/-! DEFINITION. Loads and stores (44_loads.md R170 to R176). None writes a flag. -/

namespace Sys2Proof.Machine

/-- LD A,(rr) (R173, R174): the read's overlay trigger applies. -/
def loadAIndirect (rr : Reg16) (s : State) : State :=
  let v := readIndirect s rr
  v.2.setReg8 .a v.1

/-- LD (rr),A (R171, R172). -/
def storeAIndirect (rr : Reg16) (s : State) : State := writeIndirect s rr s.a

/-- LD BC,d16, 0x01 (R170). -/
def execLdBcD16 (d16 : Word) (s : State) : Host.Outcome State Fault Refusal :=
  complete (instrCycles s.config (.ldBcD16 d16)) (s.setReg16 .bc d16)

/-- LD DE,d16, 0x11 (R170). -/
def execLdDeD16 (d16 : Word) (s : State) : Host.Outcome State Fault Refusal :=
  complete (instrCycles s.config (.ldDeD16 d16)) (s.setReg16 .de d16)

/-- LD HL,d16, 0x21 (R170). -/
def execLdHlD16 (d16 : Word) (s : State) : Host.Outcome State Fault Refusal :=
  complete (instrCycles s.config (.ldHlD16 d16)) (s.setReg16 .hl d16)

/-- LD SP,d16, 0x31 (R170). -/
def execLdSpD16 (d16 : Word) (s : State) : Host.Outcome State Fault Refusal :=
  complete (instrCycles s.config (.ldSpD16 d16)) (s.setReg16 .sp d16)

/-- LD (BC),A, 0x02 (R171). -/
def execLdMemBcA (s : State) : Host.Outcome State Fault Refusal :=
  complete (instrCycles s.config .ldMemBcA) (storeAIndirect .bc s)

/-- LD (DE),A, 0x12 (R172). -/
def execLdMemDeA (s : State) : Host.Outcome State Fault Refusal :=
  complete (instrCycles s.config .ldMemDeA) (storeAIndirect .de s)

/-- LD A,(BC), 0x0A (R173). -/
def execLdAMemBc (s : State) : Host.Outcome State Fault Refusal :=
  complete (instrCycles s.config .ldAMemBc) (loadAIndirect .bc s)

/-- LD A,(DE), 0x1A (R174). -/
def execLdAMemDe (s : State) : Host.Outcome State Fault Refusal :=
  complete (instrCycles s.config .ldAMemDe) (loadAIndirect .de s)

/-- LD B,d8, 0x06 (R175). -/
def execLdBD8 (d8 : Byte) (s : State) : Host.Outcome State Fault Refusal :=
  complete (instrCycles s.config (.ldBD8 d8)) (s.setReg8 .b d8)

/-- LD C,d8, 0x0E (R175). -/
def execLdCD8 (d8 : Byte) (s : State) : Host.Outcome State Fault Refusal :=
  complete (instrCycles s.config (.ldCD8 d8)) (s.setReg8 .c d8)

/-- LD D,d8, 0x16 (R175). -/
def execLdDD8 (d8 : Byte) (s : State) : Host.Outcome State Fault Refusal :=
  complete (instrCycles s.config (.ldDD8 d8)) (s.setReg8 .d d8)

/-- LD E,d8, 0x1E (R175). -/
def execLdED8 (d8 : Byte) (s : State) : Host.Outcome State Fault Refusal :=
  complete (instrCycles s.config (.ldED8 d8)) (s.setReg8 .e d8)

/-- LD H,d8, 0x26 (R175). -/
def execLdHD8 (d8 : Byte) (s : State) : Host.Outcome State Fault Refusal :=
  complete (instrCycles s.config (.ldHD8 d8)) (s.setReg8 .h d8)

/-- LD L,d8, 0x2E (R175). -/
def execLdLD8 (d8 : Byte) (s : State) : Host.Outcome State Fault Refusal :=
  complete (instrCycles s.config (.ldLD8 d8)) (s.setReg8 .l d8)

/-- LD A,d8, 0x3E (R175). -/
def execLdAD8 (d8 : Byte) (s : State) : Host.Outcome State Fault Refusal :=
  complete (instrCycles s.config (.ldAD8 d8)) (s.setReg8 .a d8)

/-- LD (HL),d8, 0x36 (R176). -/
def execLdMemHlD8 (d8 : Byte) (s : State) : Host.Outcome State Fault Refusal :=
  complete (instrCycles s.config (.ldMemHlD8 d8)) (writeIndirect s .hl d8)

end Sys2Proof.Machine
end

