-- ==== Sys2Proof/Machine/Rotate.lean ====
section
/-! DEFINITION. The rotates of A (43_rotate.md R160, R161). -/

namespace Sys2Proof.Machine

/-- RLCA's effect (R160): Z, N and H are cleared whatever the result. -/
def rotateLeftA (s : State) : State :=
  let x := aluRlc8 s.a
  (s.setReg8 .a x.1).setZNHC false false false x.2

/-- RRCA's effect (R161): Z, N and H are cleared whatever the result. -/
def rotateRightA (s : State) : State :=
  let x := aluRrc8 s.a
  (s.setReg8 .a x.1).setZNHC false false false x.2

/-- RLCA, 0x07 (R160). -/
def execRlca (s : State) : Host.Outcome State Fault Refusal :=
  complete (instrCycles s.config .rlca) (rotateLeftA s)

/-- RRCA, 0x0F (R161). -/
def execRrca (s : State) : Host.Outcome State Fault Refusal :=
  complete (instrCycles s.config .rrca) (rotateRightA s)

end Sys2Proof.Machine
end

