-- ==== Sys2Proof/Machine/Fetch.lean ====
section
/-! DEFINITION. The fetch_unit and what it hands to the handler (30_encoding.md R100, R106): the opcode, the lookup in
the dispatch table, the operand slice, `pc` past the whole instruction. Beside it, how the bytes of one instruction
are placed where the next fetch reads them. -/

namespace Sys2Proof.Machine

/-- The start of a step (R100, 20_memory.md R61): under the `pc` trigger, `pc` = 0x0100 ends the overlay. DEDUCED (log
entry 15): also where the opcode then has no handler. -/
def pcTrigger (s : State) : State :=
  if s.config.overlayTrigger = .pcReaches0100 ∧ s.pc = 0x0100#16 then disableBios s else s

/-- One byte read at `pc`, which then advances by one, modulo 2^16 (R100, 10_state.md R28). -/
def fetchByte (s : State) : Byte × State :=
  let r := readByte s s.pc
  (r.1, { r.2 with pc := s.pc + 1 })

/-- `n` bytes read at `pc`, in address order (R106). -/
def fetchOperands : Nat → State → List Byte × State
  | 0, s => ([], s)
  | n + 1, s =>
    let r := fetchByte s
    let rest := fetchOperands n r.2
    (r.1 :: rest.1, rest.2)

/-- What the fetch of one instruction gives. -/
inductive Fetched where
  /-- the opcode selects the sentinel: the opcode, its address, the state after its read -/
  | unknown (op : Byte) (a0 : Word) (s : State)
  /-- an admitted opcode: its address, the opcode, the operand slice, the instruction, the state its handler sees -/
  | instr (a0 : Word) (op : Byte) (ops : List Byte) (i : Instr) (s : State)

/-- Fetch, decode and operand fetch of one step (R100). -/
def fetchInstr (s : State) : Fetched :=
  let r := fetchByte (pcTrigger s)
  match (table s.config.stopLength r.1).build with
  | none => .unknown r.1 s.pc r.2
  | some build =>
    let ops := fetchOperands ((table s.config.stopLength r.1).length - 1) r.2
    .instr s.pc r.1 ops.1 (build ops.1) ops.2

/-! Placing an instruction from outside the machine. -/

/-- The byte that an address reads as, replaced from outside, in ROM and BIOS as well: what loading an image does.
An address that no array backs is left alone. -/
def pokeByte (s : State) (addr : Word) (v : Byte) : State :=
  match decodeAddr s.biosMapped addr with
  | .cell r i => s.setArray r (Memory.write (s.array r) i v)
  | .oamTail => s
  | .io => s

/-- A list of bytes placed at consecutive addresses, wrapping modulo 2^16. -/
def pokeBytes (s : State) (addr : Word) : List Byte → State
  | [] => s
  | v :: vs => pokeBytes (pokeByte s addr v) (addr + 1) vs

/-- An array backs the address. -/
def backed (s : State) (addr : Word) : Bool :=
  match decodeAddr s.biosMapped addr with
  | .cell _ _ => true
  | .oamTail => false
  | .io => false

/-- The state with the bytes of an instruction of at most three bytes where the next step fetches it: a halted core
runs again, and a `pc` whose three addresses are not all backed by an array moves to 0xC000, since nothing can be
placed there. -/
def placeInstr (s : State) (bytes : List Byte) : State :=
  let at3 := backed s s.pc && backed s (s.pc + 1) && backed s (s.pc + 2)
  let start : Word := if at3 then s.pc else 0xC000#16
  pokeBytes { s with run := .running, pc := start } start bytes

end Sys2Proof.Machine
end

