-- ==== Sys2Proof/Machine/Step.lean ====
section
/-! DEFINITION. One step (30_encoding.md R100, R101, R192): fetch, decode, operand fetch, handler. Every step answers
a next state, after an error and on a halted core too, because the spec gives the state there (DESIGN CHOICE, log
entry 9). The outcome that R102 reports beside it is `stepResult` (HostInterface.lean). -/

namespace Sys2Proof.Machine

/-- `step()` (R100). A halted core changes nothing (R101). A sentinel halts the core with UnknownInstruction, after
the fetch has advanced `pc` past the opcode (60_exceptions.md R201). -/
def step (s : State) : Host.Outcome State Fault Refusal :=
  match s.run with
  | .halted _ => .next s
  | .running =>
    match fetchInstr s with
    | .unknown op a0 t => .next (raiseFault (.unknownInstruction op a0) t)
    | .instr _ _ _ i t => exec i t

/-- The state with the instruction whose bits are `w` (the bits at `nbits` and above zero) where `step` fetches its
next instruction. It stands for loading an image (log entry 3). -/
def State.withFetchWord (s : State) (nbits w : Nat) : State := placeInstr s (wordBytes nbits w)

end Sys2Proof.Machine
end

