-- ==== Sys2Proof/Machine/HostInterface.lean ====
section
/-! DEFINITION. What the host can do between steps (70_reset_and_hazards.md R240): construct the core, step it and
learn the outcome, run it under a bound, reach its registers and memory. `reset()` and `disable_bios()` are
`resetCore` and `disableBios` (Ops.lean). -/

namespace Sys2Proof.Machine

/-! Construction (R230, R231). -/

/-- The three constructors' images (R230, 90_conflicts.md C5). -/
inductive Images where
  | none
  | rom (rom : List Byte)
  | biosRom (bios rom : List Byte)

/-- The RAM bytes that are inputs of construction under `RAM_INIT` = arbitrary (R230). -/
structure RamImage where
  vram : List Byte
  eram : List Byte
  wram : List Byte
  oam : List Byte
  hram : List Byte

/-- The contents of a RAM region at construction (R230, step 5). -/
def ramContents (cfg : Config) (size : Nat) (image : List Byte) : Memory :=
  match cfg.ramInit with
  | .zero => []
  | .arbitrary => Memory.ofImage size image

/-- R230, step 1: a BIOS image has exactly 256 bytes. -/
def biosContents : Images → Except Fault Memory
  | .none => .ok []
  | .rom _ => .ok []
  | .biosRom bios _ => if bios.length = 256 then .ok (Memory.ofImage 256 bios) else .error .invalidBios

/-- R230, steps 2 and 3: a ROM image of more than 32768 bytes is refused or truncated, a shorter one zero padded. -/
def romContents (cfg : Config) (image : List Byte) : Except Fault Memory :=
  if image.length > 32768 ∧ cfg.romOversize = .refuse then .error (.romTooLarge image.length)
  else .ok (Memory.ofImage 32768 image)

/-- The ROM image that a constructor is given; `new()` gives none. -/
def Images.romImage : Images → List Byte
  | .none => []
  | .rom image => image
  | .biosRom _ image => image

/-- Whether a constructor is given a BIOS image (R231). -/
def Images.hasBios : Images → Bool
  | .none => false
  | .rom _ => false
  | .biosRom _ _ => true

/-- Construction (R230): the BIOS is checked before the ROM; the registers, `cycles` and `run` are as after
`reset()` (10_state.md R39). `ram` counts under `RAM_INIT` = arbitrary only. -/
def construct (cfg : Config) (ram : RamImage) (images : Images) : Except Fault State :=
  match biosContents images with
  | .error e => .error e
  | .ok bios =>
    match romContents cfg images.romImage with
    | .error e => .error e
    | .ok rom =>
      .ok (resetCore { State.reset with
        bios := bios
        rom := rom
        vram := ramContents cfg 8192 ram.vram
        eram := ramContents cfg 8192 ram.eram
        wram := ramContents cfg 8192 ram.wram
        oam := ramContents cfg 256 ram.oam
        hram := ramContents cfg 128 ram.hram
        biosMapped := images.hasBios
        config := cfg })

/-! Step outcomes, the trace hook and `run` (30_encoding.md R102 to R104). -/

/-- What `step()` returns (R102). -/
inductive StepResult where
  | ok (t : Nat)
  | stopped
  | error (e : Fault)
  | halted (r : HaltReason)
deriving DecidableEq, Repr

/-- The outcome of the step that starts in this state (R100, R102). -/
def stepResult (s : State) : StepResult :=
  match s.run with
  | .halted r => .halted r
  | .running =>
    match fetchInstr s with
    | .unknown op a0 _ => .error (.unknownInstruction op a0)
    | .instr _ _ _ i _ =>
      if instrCycles s.config i = 0 then .stopped else .ok (instrCycles s.config i)

/-- What the trace hook is called with: address, opcode, operand slice, cycles (R104). -/
structure TraceRecord where
  addr : Word
  opcode : Byte
  operands : List Byte
  cycles : Nat
deriving DecidableEq, Repr

/-- The call of the trace hook that the step starting in this state makes (R104): none where no hook is registered,
on a halted core, or for a sentinel. -/
def stepTrace (s : State) : Option TraceRecord :=
  match s.run with
  | .halted _ => none
  | .running =>
    match fetchInstr s with
    | .unknown _ _ _ => none
    | .instr a0 op ops i _ =>
      if s.config.traceHook then
        some { addr := a0, opcode := op, operands := ops, cycles := instrCycles s.config i }
      else none

/-- The state after one step; `step` answers a next state from every state. -/
def stepState (s : State) : State :=
  match step s with
  | .next t => t
  | .fault _ => s
  | .refused _ => s

/-- What `run(bound)` leaves: the steps taken, the last outcome, the state (R103). -/
structure RunReport where
  steps : Nat
  last : Option StepResult
  state : State

/-- `run(bound)` (R103) from a count of steps and a last outcome so far. An unbounded run is a run under enough fuel.
DESIGN CHOICE (log entry 4): on a core that is already halted it takes no step. -/
def runFrom (steps : Nat) (last : Option StepResult) : Nat → State → RunReport
  | 0, s => { steps := steps, last := last, state := s }
  | bound + 1, s =>
    match s.run with
    | .halted _ => { steps := steps, last := last, state := s }
    | .running => runFrom (steps + 1) (some (stepResult s)) bound (stepState s)

/-- `run(bound)` (R103). -/
def runCore (bound : Nat) (s : State) : RunReport := runFrom 0 none bound s

/-! Host access to registers (R240, R241, 30_encoding.md R109). -/

/-- The registers a host names (00_scope.md R11). -/
inductive HostReg where
  | byte (r : Reg8)
  | f
  | pair (rr : Reg16)
  | af
  | pc
deriving DecidableEq, Repr

/-- The host reads a register; a byte register in the low half of the word. -/
def hostReadReg (s : State) : HostReg → Word
  | .byte r => concat 0 (s.reg8 r)
  | .f => concat 0 s.readF
  | .pair rr => s.reg16 rr
  | .af => s.readAF
  | .pc => s.pc

/-- The host writes a register; a byte register takes the low half of the word. F and AF are masked (R241). -/
def hostWriteReg (s : State) (r : HostReg) (v : Word) : State :=
  match r with
  | .byte r => s.setReg8 r (lo8 v)
  | .f => s.writeF (lo8 v)
  | .pair rr => s.setReg16 rr v
  | .af => s.writeAF v
  | .pc => s.setPc v

/-! Host access to memory by an address of any width (20_memory.md R67). -/

/-- The result of a host call: a value and a state, or an error and a state. -/
inductive HostResult (α : Type) where
  | ok (v : α) (s : State)
  | error (e : Fault) (s : State)

/-- The state a host call leaves. -/
def HostResult.state {α : Type} : HostResult α → State
  | .ok _ s => s
  | .error _ s => s

/-- A host call at an address wider than 16 bits: an address of 0x10000 or more raises AddressOutOfBounds, which
halts the core, and is never reduced (R67, 60_exceptions.md R203). DEDUCED (log entry 13): also where it is halted
already. -/
def atAddress {α : Type} (s : State) (a : Nat) (k : Word → α × State) : HostResult α :=
  if a < 0x10000 then .ok (k (BitVec.ofNat 16 a)).1 (k (BitVec.ofNat 16 a)).2
  else .error (.addressOutOfBounds a) (raiseFault (.addressOutOfBounds a) s)

/-- The host's `read_byte`. -/
def hostReadByte (s : State) (a : Nat) : HostResult Byte := atAddress s a fun w => readByte s w

/-- The host's `write_byte`. -/
def hostWriteByte (s : State) (a : Nat) (v : Byte) : HostResult Unit := atAddress s a fun w => ((), writeByte s w v)

/-- The host's `read_short`. -/
def hostReadShort (s : State) (a : Nat) : HostResult Word := atAddress s a fun w => readShort s w

/-- The host's `write_short`. -/
def hostWriteShort (s : State) (a : Nat) (v : Word) : HostResult Unit :=
  atAddress s a fun w => ((), writeShort s w v)

/-! `fetch_region` (R66). -/

/-- A view of a span of one array. -/
structure RegionView where
  start : Word
  length : Nat
deriving DecidableEq, Repr

/-- `decode(a + k)` names the given array at the given indexes for every offset below `n` (R66). -/
def spanContiguous (biosMapped : Bool) (addr : Word) (r : Region) (i : Nat) : Nat → Bool
  | 0 => true
  | k + 1 =>
    spanContiguous biosMapped addr r i k &&
      decodeAddr biosMapped (addr + BitVec.ofNat 16 k) == .cell r (i + k)

/-- The span `[a, a + n)` lies inside the address space and inside one array, at consecutive indexes (R66). DESIGN
CHOICE (log entry 5): an empty span at an address without an array is refused as well. -/
def spanOk (biosMapped : Bool) (addr : Word) (n : Nat) : Bool :=
  decide (addr.toNat + n ≤ 0x10000) &&
    match decodeAddr biosMapped addr with
    | .cell r i => spanContiguous biosMapped addr r i n
    | .oamTail => false
    | .io => false

/-- `fetch_region(a, n)` (R66): a view, or InvalidRegionSpan. A failed call changes no state (R66, R204). DESIGN
CHOICE (log entry 14): a call that succeeds changes none either, so a span that holds 0x0100 ends the overlay only when
that byte is read through the view. -/
def fetchRegion (s : State) (addr : Word) (n : Nat) : Except Fault RegionView :=
  if spanOk s.biosMapped addr n then .ok { start := addr, length := n } else .error (.invalidRegionSpan addr n)

/-- A read through a view: `read_byte(a + i)` (R66); nothing for an offset outside the view. -/
def readView (s : State) (view : RegionView) (i : Nat) : Option (Byte × State) :=
  if i < view.length then some (readByte s (view.start + BitVec.ofNat 16 i)) else none

/-- A write through a view: `write_byte(a + i, v)` (R66); nothing for an offset outside the view. -/
def writeView (s : State) (view : RegionView) (i : Nat) (v : Byte) : Option State :=
  if i < view.length then some (writeByte s (view.start + BitVec.ofNat 16 i) v) else none

end Sys2Proof.Machine
end

