-- ==== Sys2Proof/Safety.lean ====
section
/-! DEFINITION. What the model's statements call a good state, and the relations they use between two states. -/

namespace Sys2Proof.Machine

/-- Every array is in canonical form and inside its size. -/
def State.memoryWf (s : State) : Prop := ∀ r : Region, Memory.wf (regionSize r) (s.array r) = true

/-- F's low nibble is zero (10_state.md R25). -/
def State.flagsWf (s : State) : Prop := s.f &&& 0x0F#8 = 0

/-- A core that halted with an error halted with UnknownInstruction, at an opcode that has no handler (10_state.md
R35, 60_exceptions.md R201). -/
def State.haltWf (s : State) : Prop :=
  ∀ e, s.run = .halted (.fault e) → ∃ op addr, e = .unknownInstruction op addr ∧ admitted op = false

/-- The invariant of the machine. -/
def State.Inv (s : State) : Prop := s.memoryWf ∧ s.flagsWf ∧ s.haltWf

/-- Every cost override of the configuration is at least 4, as 30_encoding.md R94 asks. -/
def State.costsReal (s : State) : Prop := ∀ p ∈ s.config.cycles, 4 ≤ p.2

/-! What a statement says about the state before and the state after. -/

/-- The two states' arrays are the same. -/
def SameMemory (s t : State) : Prop := ∀ r : Region, t.array r = s.array r

/-- Every operand register outside the list is the same in both states. -/
def SameReg8Outside (changed : List Reg8) (s t : State) : Prop := ∀ r, r ∉ changed → t.reg8 r = s.reg8 r

/-- Every operand register, SP and F are the same in both states. -/
def SameRegisters (s t : State) : Prop := SameReg8Outside [] s t ∧ t.sp = s.sp ∧ t.f = s.f

/-- `pc`, the overlay flag, the run state, `cycles` and the configuration are the same in both states. -/
def SameControl (s t : State) : Prop :=
  t.pc = s.pc ∧ t.biosMapped = s.biosMapped ∧ t.run = s.run ∧ t.cycles = s.cycles ∧ t.config = s.config

/-- Everything but the operand registers and F is the same in both states. -/
def SameOutsideRegs (s t : State) : Prop := t.sp = s.sp ∧ SameMemory s t ∧ SameControl s t

/-- The core is halted, for whatever reason. -/
def State.isHalted (s : State) : Prop := ∃ r, s.run = .halted r

/-- The registers a pair is made of (10_state.md R23); SP is in no pair. -/
def pairHalves : Reg16 → List Reg8
  | .bc => [.b, .c]
  | .de => [.d, .e]
  | .hl => [.h, .l]
  | .sp => []

/-- No byte of any array changed, the overlay flag is the same, and every address reads as before. -/
def UntouchedMemory (s t : State) : Prop :=
  SameMemory s t ∧ t.biosMapped = s.biosMapped ∧ ∀ addr, t.peek addr = s.peek addr

/-- What every instruction does to the rest of the state: `pc` stays past the instruction, the configuration stays,
`cycles` grows by the instruction's cost (which is `dflt` unless the configuration overrides it), and the core keeps
its run state unless the cost is 0, the STOP signal (30_encoding.md R94, R100). -/
def Retired (i : Instr) (dflt : Nat) (s t : State) : Prop :=
  t.pc = s.pc ∧ t.config = s.config ∧ t.cycles = s.cycles + instrCycles s.config i ∧
  (s.config.cycles = [] → instrCycles s.config i = dflt) ∧
  t.run = (if instrCycles s.config i = 0 then .halted .stop else s.run)

/-- Whether the overlay is still on after a byte is read at an address (20_memory.md R61). -/
def overlayAfterRead (s : State) (addr : Word) : Bool :=
  s.biosMapped && !(s.config.overlayTrigger == .readAt0100 && addr == 0x0100#16)

/-- The addresses a write reaches: all but BIOS, ROM, the OAM tail and I/O (20_memory.md R63). -/
def writableAddr (addr : Word) : Prop := 0x8000 ≤ addr.toNat ∧ addr.toNat < 0xFEA0 ∨ 0xFF80 ≤ addr.toNat

/-- The state with another value of the overlay flag. -/
def State.withOverlay (s : State) (mapped : Bool) : State := { s with biosMapped := mapped }

/-- The state with a trace hook registered or not. -/
def State.withHook (s : State) (on : Bool) : State := { s with config := { s.config with traceHook := on } }

/-- Between `s` and `t` the byte `v` was stored at `addr`, and nothing else in memory changed: a writable address
reads `v` after it; a store elsewhere changes no array; every other cell of every array is unchanged; and every
address that does not name the stored byte reads as in `s` (under the overlay flag of `t`). -/
def StoredAt (addr : Word) (v : Byte) (s t : State) : Prop :=
  (writableAddr addr → t.peek addr = v) ∧
  (¬ writableAddr addr → SameMemory s t) ∧
  (∀ r i, decodeAddr t.biosMapped addr ≠ .cell r i → Memory.read (t.array r) i = Memory.read (s.array r) i) ∧
  (∀ b, decodeAddr t.biosMapped b ≠ decodeAddr t.biosMapped addr → t.peek b = (s.withOverlay t.biosMapped).peek b)

/-- The instruction's bytes are these: the encoder gives them, and the decoder reads the instruction from them
whatever follows, under each `STOP_LENGTH` the instruction is well-formed for. -/
def EncodedAs (i : Instr) (bytes : List Byte) : Prop :=
  encode i = bytes ∧ ∀ n rest, i.wellFormed n = true → decode n (bytes ++ rest) = .ok (i, rest)

/-- `n` executions of one instruction, one after the other. -/
def execTimes (i : Instr) : Nat → State → Host.Outcome State Fault Refusal
  | 0, s => .next s
  | n + 1, s =>
    match exec i s with
    | .next t => execTimes i n t
    | .fault e => .fault e
    | .refused e => .refused e

end Sys2Proof.Machine
end

