-- ==== Sys2Proof/Certificates/Slice0/Obligations.lean ====
section
/-! DEFINITION. The statements about the machine, each with the rules of spec/ it formalises. `Retired`, `StoredAt`,
`UntouchedMemory` and the other relations between two states are in Sys2Proof/Safety.lean. -/

open Sys2Proof Sys2Proof.Machine

/-! Reset and construction. -/

/-- R39, "after construction" column, for `new()`: registers, SP and pc zero, cycles 0, Running, and every array
zero. That the overlay is off is R231's, for a construction without a BIOS image. -/
def Obligations.ResetLeavesStatedValues : Prop :=
  (∀ r, State.reset.reg8 r = 0) ∧ State.reset.f = 0 ∧ State.reset.sp = 0 ∧ State.reset.pc = 0 ∧
  State.reset.cycles = 0 ∧ State.reset.run = .running ∧ State.reset.biosMapped = false ∧
  (∀ r i, Memory.read (State.reset.array r) i = 0) ∧ (∀ addr, State.reset.peek addr = 0)

/-- The machine's invariant holds after reset: arrays in canonical form, F's low nibble zero, no error halt. -/
def Obligations.InvariantHoldsAtReset : Prop := State.reset.Inv

/-- R234 with R9's RESET_REGS: `reset()` sets every register to its field of RESET_REGS (zero by default; F masked as
R25 says), `cycles` and `run`, and changes no memory byte and not the overlay flag; from a halted core as well. -/
def Obligations.HostResetRestartsCore : Prop :=
  ∀ s : State,
    ((resetCore s).a = s.config.resetRegs.a ∧ (resetCore s).f = (s.config.resetRegs.f &&& 0xF0#8) ∧
      (resetCore s).b = s.config.resetRegs.b ∧ (resetCore s).c = s.config.resetRegs.c ∧
      (resetCore s).d = s.config.resetRegs.d ∧ (resetCore s).e = s.config.resetRegs.e ∧
      (resetCore s).h = s.config.resetRegs.h ∧ (resetCore s).l = s.config.resetRegs.l ∧
      (resetCore s).sp = s.config.resetRegs.sp ∧ (resetCore s).pc = s.config.resetRegs.pc) ∧
    (s.config.resetRegs = ResetRegs.zero →
      (∀ r, (resetCore s).reg8 r = 0) ∧ (resetCore s).f = 0 ∧ (resetCore s).sp = 0 ∧ (resetCore s).pc = 0) ∧
    (resetCore s).flagsWf ∧
    (resetCore s).cycles = 0 ∧ (resetCore s).run = .running ∧ (resetCore s).biosMapped = s.biosMapped ∧
    (resetCore s).config = s.config ∧
    SameMemory s (resetCore s) ∧ ∀ addr, (resetCore s).peek addr = s.peek addr

/-- R230 and R231 for `new(rom)`: the ROM holds the image, zero padded, the BIOS is zero, RAM is zero under
RAM_INIT = zero, the overlay is off, and the result meets the invariant. -/
def Obligations.ConstructionLoadsRomImage : Prop :=
  ∀ (cfg : Config) (ram : RamImage) (image : List Byte), image.length ≤ 32768 →
    ∃ s, construct cfg ram (.rom image) = .ok s ∧ s.Inv ∧ s.config = cfg ∧ s.biosMapped = false ∧
      s.run = .running ∧ s.cycles = 0 ∧ s.pc = cfg.resetRegs.pc ∧
      (∀ i, Memory.read s.rom i = image.getD i 0) ∧ (∀ i, Memory.read s.bios i = 0) ∧
      (cfg.ramInit = .zero → ∀ addr, 0x8000 ≤ addr.toNat → s.peek addr = 0) ∧
      (∀ addr, addr.toNat < 0x8000 → s.peek addr = image.getD addr.toNat 0)

/-- R230 for `new(bios, rom)`: the overlay is on, the lowest 256 addresses read the BIOS image and the rest of the
ROM range the ROM image. -/
def Obligations.ConstructionMapsBios : Prop :=
  ∀ (cfg : Config) (ram : RamImage) (bios image : List Byte), bios.length = 256 → image.length ≤ 32768 →
    ∃ s, construct cfg ram (.biosRom bios image) = .ok s ∧ s.Inv ∧ s.biosMapped = true ∧
      (∀ addr, addr.toNat < 0x100 → s.peek addr = bios.getD addr.toNat 0) ∧
      (∀ addr, 0x100 ≤ addr.toNat → addr.toNat < 0x8000 → s.peek addr = image.getD addr.toNat 0)

/-- R202, R205: a BIOS image of another length is InvalidBios, whatever the ROM; under each constructor whose BIOS
image, if it has one, is accepted, a ROM image over 32768 bytes is RomTooLarge under the refuse policy, and its first
32768 bytes are kept under the truncate policy. -/
def Obligations.ConstructionChecksImages : Prop :=
  (∀ cfg ram bios rom, bios.length ≠ 256 → construct cfg ram (.biosRom bios rom) = .error .invalidBios) ∧
  (∀ cfg ram images bios, biosContents images = .ok bios → 32768 < images.romImage.length →
    cfg.romOversize = .refuse → construct cfg ram images = .error (.romTooLarge images.romImage.length)) ∧
  (∀ cfg ram images bios, biosContents images = .ok bios → 32768 < images.romImage.length →
    cfg.romOversize = .truncate →
    ∃ s, construct cfg ram images = .ok s ∧ s.Inv ∧ s.bios = bios ∧ s.biosMapped = images.hasBios ∧
      ∀ i, Memory.read s.rom i = (images.romImage.take 32768).getD i 0)

/-! Encoding. -/

/-- Words written out from R93 (each family has one) decode to the instructions they stand for. -/
def Obligations.WrittenWordsDecode : Prop :=
  decode .two [0x06, 0x05, 0x04] = .ok (.ldBD8 0x05, [0x04]) ∧ decode .two [0x04] = .ok (.incB, []) ∧
  decode .two [0x35] = .ok (.decMemHl, []) ∧ decode .two [0x01, 0x34, 0x12] = .ok (.ldBcD16 0x1234, []) ∧
  decode .two [0x3B] = .ok (.decSp, []) ∧ decode .two [0x29] = .ok (.addHlHl, []) ∧
  decode .two [0x0F] = .ok (.rrca, []) ∧ decode .two [0x1A] = .ok (.ldAMemDe, []) ∧
  decode .two [0x10, 0x00] = .ok (.stop (some 0x00), []) ∧ decode .one [0x10] = .ok (.stop none, []) ∧
  decode .two [0x00] = .ok (.nop, []) ∧ decode .two [0xCB, 0x00] = .error (.unknownOpcode 0xCB) ∧
  decode .two [0x36] = .error .truncated

/-- Decode and encode agree: whatever bytes follow, decoding the encoding of a well-formed instruction gives it back,
with every operand at every value. -/
def Obligations.DecodeOfEncode : Prop :=
  ∀ (n : StopLength) (i : Instr) (rest : List Byte), i.wellFormed n = true →
    decode n (encode i ++ rest) = .ok (i, rest)

/-- The other direction: bytes that decode are the encoding of the instruction they decode to, which is
well-formed. -/
def Obligations.EncodeOfDecode : Prop :=
  ∀ (n : StopLength) (bytes : List Byte) (i : Instr) (rest : List Byte), decode n bytes = .ok (i, rest) →
    i.wellFormed n = true ∧ encode i ++ rest = bytes

/-- R96's list: the 208 slots that hold the sentinel, each of length 1, 0xCB among them; and R97: every slot of the
0xCB page is the sentinel. -/
def Obligations.SentinelSlots : Prop :=
  (∀ n op, (table n op).build = none ↔
    0x40 ≤ op.toNat ∨ op.toNat ∈ [0x08, 0x17, 0x18, 0x1F, 0x20, 0x22, 0x27, 0x28, 0x2A, 0x2F, 0x30, 0x32, 0x37, 0x38,
      0x3A, 0x3F]) ∧
  (∀ n op, (table n op).build = none → (table n op).length = 1) ∧
  ((List.range 256).countP fun k => !admitted (BitVec.ofNat 8 k)) = 208 ∧
  (table .two 0xCB).build = none ∧
  (∀ op, (cbTable op).build = none ∧ (cbTable op).length = 1)

/-- R95, R90: the table is keyed by the opcode, and a length is 1 to 3. -/
def Obligations.DispatchTableShape : Prop :=
  ∀ n op, (table n op).opcode = op ∧ 1 ≤ (table n op).length ∧ (table n op).length ≤ 3 ∧
    ((table n op).length = 3 ↔ op.toNat % 16 = 1 ∧ op.toNat < 0x40)

/-- R98: the three-bit field of INC r, DEC r and LD r,d8, the two-bit field and the bit q of the pair forms, and the
fields of the register-indirect loads, in the opcode byte. -/
def Obligations.OperandFields : Prop :=
  (∀ r, (Instr.incReg r).opcode.extractLsb' 3 3 = fieldR r ∧ (Instr.decReg r).opcode.extractLsb' 3 3 = fieldR r ∧
    ∀ v, (Instr.loadReg r v).opcode.extractLsb' 3 3 = fieldR r) ∧
  (∀ r, (fieldR r).toNat = match r with | .b => 0 | .c => 1 | .d => 2 | .e => 3 | .h => 4 | .l => 5 | .a => 7) ∧
  (Instr.incMemHl.opcode.extractLsb' 3 3 = 6#3 ∧ Instr.decMemHl.opcode.extractLsb' 3 3 = 6#3 ∧
    ∀ v, (Instr.ldMemHlD8 v).opcode.extractLsb' 3 3 = 6#3) ∧
  (∀ rr v, (Instr.loadPair rr v).opcode.extractLsb' 4 2 = fieldPP rr ∧
    (Instr.incPair rr).opcode.extractLsb' 4 2 = fieldPP rr ∧ (Instr.decPair rr).opcode.extractLsb' 4 2 = fieldPP rr ∧
    (Instr.addPair rr).opcode.extractLsb' 4 2 = fieldPP rr ∧
    (Instr.loadPair rr v).opcode.getLsbD 3 = false ∧ (Instr.addPair rr).opcode.getLsbD 3 = true ∧
    (Instr.incPair rr).opcode.getLsbD 3 = false ∧ (Instr.decPair rr).opcode.getLsbD 3 = true ∧
    (Instr.loadPair rr v).opcode.extractLsb' 0 3 = 1#3 ∧ (Instr.addPair rr).opcode.extractLsb' 0 3 = 1#3 ∧
    (Instr.incPair rr).opcode.extractLsb' 0 3 = 3#3 ∧ (Instr.decPair rr).opcode.extractLsb' 0 3 = 3#3) ∧
  (∀ rr, (fieldPP rr).toNat = match rr with | .bc => 0 | .de => 1 | .hl => 2 | .sp => 3) ∧
  (Instr.ldMemBcA.opcode = 0b00000010#8 ∧ Instr.ldMemDeA.opcode = 0b00010010#8 ∧
    Instr.ldAMemBc.opcode = 0b00001010#8 ∧ Instr.ldAMemDe.opcode = 0b00011010#8)

/-! The step. -/

/-- Whether the fetch of `n` bytes at `pc` ends the overlay (R61, both triggers). -/
def fetchEndsOverlay (s : State) (n : Nat) : Bool :=
  match s.config.overlayTrigger with
  | .readAt0100 =>
    s.pc == 0x0100#16 || (decide (2 ≤ n) && s.pc + 1 == 0x0100#16) || (decide (3 ≤ n) && s.pc + 2 == 0x0100#16)
  | .pcReaches0100 => s.pc == 0x0100#16

/-- The state a handler is given: `pc` past the instruction's `n` bytes, the overlay as the fetch leaves it. -/
def afterFetch (s : State) (n : Nat) : State :=
  { s with pc := s.pc + BitVec.ofNat 16 n, biosMapped := s.biosMapped && !fetchEndsOverlay s n }

/-- A step runs the decoded instruction: where the three bytes at `pc` (addresses wrap) decode to an instruction, the
step is `exec` of it with `pc` past its bytes. -/
def Obligations.StepRunsDecodedInstruction : Prop :=
  ∀ (s : State) (i : Instr) (rest : List Byte), s.run = .running →
    decode s.config.stopLength [s.peek s.pc, s.peek (s.pc + 1), s.peek (s.pc + 2)] = .ok (i, rest) →
    step s = exec i (afterFetch s (encode i).length)

/-- R201, R192, and R100 with R61 for the overlay: an opcode without a handler halts the core with UnknownInstruction
and its address; `pc` is past the opcode, and nothing else changes but what the step does to the overlay before and in
the opcode's fetch. Under pc_reaches_0100 at `pc` = 0x0100 that clears it, as R100 and R61 say and R201's last bullet
does not (log entry 15). The step reports the error and does not call the trace hook. -/
def Obligations.UnknownOpcodeHalts : Prop :=
  ∀ s : State, s.run = .running → admitted (s.peek s.pc) = false →
    step s = .next { afterFetch s 1 with run := .halted (.fault (.unknownInstruction (s.peek s.pc) s.pc)) } ∧
    stepResult s = .error (.unknownInstruction (s.peek s.pc) s.pc) ∧ stepTrace s = none

/-- R101, R210: a step of a halted core changes nothing and reports the halt (and, R104, calls no hook), so a halted
core is stuck for good, under any number of steps and under `run`. No other host call makes it run: register writes,
`disable_bios()`, the four memory accesses and the accesses through a view keep the halt with its reason; an access to
an address of 0x10000 or more leaves it halted (with which reason, log entry 13 says). `reset()` makes it Running. -/
def Obligations.HaltedForGood : Prop :=
  ∀ (s : State) (r : HaltReason), s.run = .halted r →
    step s = .next s ∧ stepResult s = .halted r ∧ stepTrace s = none ∧
    (∀ k, core.run k s = .next s) ∧ (∀ bound, (runCore bound s).state = s) ∧
    (∀ reg v, (hostWriteReg s reg v).run = .halted r) ∧ (disableBios s).run = .halted r ∧
    (∀ addr v w, (readByte s addr).2.run = .halted r ∧ (writeByte s addr v).run = .halted r ∧
      (readShort s addr).2.run = .halted r ∧ (writeShort s addr w).run = .halted r) ∧
    (∀ view k v, (∀ x t, readView s view k = some (x, t) → t.run = .halted r) ∧
      (∀ t, writeView s view k v = some t → t.run = .halted r)) ∧
    (∀ a v w, (hostReadByte s a).state.isHalted ∧ (hostWriteByte s a v).state.isHalted ∧
      (hostReadShort s a).state.isHalted ∧ (hostWriteShort s a w).state.isHalted) ∧
    (resetCore s).run = .running

/-- The spec gives a state after every step, so every step answers a next state, from every state. -/
def Obligations.StepAlwaysAnswers : Prop :=
  ∀ s : State, ∃ t, step s = .next t

/-- The invariant: every step keeps the arrays' canonical form, F's low nibble, and that an error halt is
UnknownInstruction at an opcode without a handler. -/
def Obligations.StepKeepsInvariant : Prop :=
  ∀ s t : State, s.Inv → step s = .next t → t.Inv

/-- R193, R28: a running core's `pc` moves by 1 past a sentinel opcode and by the instruction's length past an
admitted one, modulo 2^16, and by nothing else. -/
def Obligations.PcAdvancesByLength : Prop :=
  ∀ s t : State, s.run = .running → step s = .next t →
    t.pc = s.pc + BitVec.ofNat 16 (table s.config.stopLength (s.peek s.pc)).length

/-- R53, R52, R77: no step changes a ROM or BIOS byte; the model's configuration does not change either. -/
def Obligations.StepKeepsRomAndBios : Prop :=
  ∀ s t : State, step s = .next t → t.rom = s.rom ∧ t.bios = s.bios ∧ t.config = s.config

/-- R34: the overlay, once off, stays off under any number of steps. -/
def Obligations.OverlayNeverReturns : Prop :=
  ∀ (k : Nat) (s t : State), s.biosMapped = false → core.run k s = .next t → t.biosMapped = false

/-- R58: no step writes OAM's bytes from 0xA0 on. -/
def Obligations.StepNeverWritesOamTail : Prop :=
  ∀ (s t : State) (k : Nat), step s = .next t → 0xA0 ≤ k → Memory.read t.oam k = Memory.read s.oam k

/-- R36, R102: `cycles` grows by the T-states the step reports; STOP, an error and a halted step add nothing. -/
def Obligations.CyclesGrowByReportedCount : Prop :=
  ∀ s t : State, step s = .next t →
    t.cycles = s.cycles + (match stepResult s with | .ok n => n | .stopped => 0 | .error _ => 0 | .halted _ => 0)

/-- R35, R194: with every cost real (R94), a running core halts in a step only by a STOP opcode or by an opcode
without a handler, and then with that reason. -/
def Obligations.OnlyStopAndUnknownHalt : Prop :=
  ∀ (s t : State) (r : HaltReason), s.costsReal → s.run = .running → step s = .next t → t.run = .halted r →
    (r = .stop ∧ s.peek s.pc = 0x10#8) ∨
    (r = .fault (.unknownInstruction (s.peek s.pc) s.pc) ∧ admitted (s.peek s.pc) = false)

/-- R102: with every cost real (R94), a running core's step reports Ok with at least 4 T-states, Stopped at a STOP
opcode, or the error; a halted core's step reports the halt. -/
def Obligations.StepOutcomes : Prop :=
  ∀ s : State, s.costsReal →
    (∀ r, s.run = .halted r → stepResult s = .halted r) ∧
    (s.run = .running → admitted (s.peek s.pc) = true → s.peek s.pc ≠ 0x10#8 → ∃ n, 4 ≤ n ∧ stepResult s = .ok n) ∧
    (s.run = .running → s.peek s.pc = 0x10#8 → stepResult s = .stopped) ∧
    (s.run = .running → admitted (s.peek s.pc) = false →
      stepResult s = .error (.unknownInstruction (s.peek s.pc) s.pc))

/-- R104: the hook is called once with the address, the opcode, the operand slice and the cycles where one is
registered and the step reaches a handler, and not for a sentinel or a halted step; without one it is never called;
and whether one is registered changes nothing else about any step. -/
def Obligations.TraceHookCall : Prop :=
  ∀ s : State,
    (∀ r, s.run = .halted r → stepTrace s = none) ∧
    (admitted (s.peek s.pc) = false → stepTrace s = none) ∧
    (s.config.traceHook = false → stepTrace s = none) ∧
    (s.run = .running → s.config.traceHook = true → ∀ i rest,
      decode s.config.stopLength [s.peek s.pc, s.peek (s.pc + 1), s.peek (s.pc + 2)] = .ok (i, rest) →
      stepTrace s = some { addr := s.pc, opcode := i.opcode, operands := i.operandBytes,
                           cycles := instrCycles s.config i }) ∧
    (∀ on, stepResult (s.withHook on) = stepResult s ∧
      ∃ t, step s = .next t ∧ step (s.withHook on) = .next (t.withHook on))

/-- R103: `run(bound)` takes at most `bound` steps; it stops early only on a halted core; its state is what that many
steps leave; and its last outcome is the last step's. On a core already halted it takes none (the model's choice,
log entry 4). -/
def Obligations.RunStopsAtHaltOrBound : Prop :=
  ∀ (bound : Nat) (s : State),
    (runCore bound s).steps ≤ bound ∧
    ((runCore bound s).steps < bound → ∃ r, (runCore bound s).state.run = .halted r) ∧
    core.run (runCore bound s).steps s = .next (runCore bound s).state ∧
    (∀ k t, (runCore bound s).steps = k + 1 → core.run k s = .next t →
      t.run = .running ∧ (runCore bound s).last = some (stepResult t)) ∧
    (∀ r, s.run = .halted r → (runCore bound s).steps = 0 ∧ (runCore bound s).last = none)

/-! Memory. -/

/-- R51's table, row by row: what each address decodes to. -/
def Obligations.AddressDecodeTable : Prop :=
  ∀ (mapped : Bool) (a : Word),
    (a.toNat ≤ 0x00FF → decodeAddr mapped a = if mapped then .cell .bios a.toNat else .cell .rom a.toNat) ∧
    (0x0100 ≤ a.toNat → a.toNat ≤ 0x7FFF → decodeAddr mapped a = .cell .rom a.toNat) ∧
    (0x8000 ≤ a.toNat → a.toNat ≤ 0x9FFF → decodeAddr mapped a = .cell .vram (a.toNat - 0x8000)) ∧
    (0xA000 ≤ a.toNat → a.toNat ≤ 0xBFFF → decodeAddr mapped a = .cell .eram (a.toNat - 0xA000)) ∧
    (0xC000 ≤ a.toNat → a.toNat ≤ 0xDFFF → decodeAddr mapped a = .cell .wram (a.toNat - 0xC000)) ∧
    (0xE000 ≤ a.toNat → a.toNat ≤ 0xFDFF → decodeAddr mapped a = .cell .wram (a.toNat - 0xE000)) ∧
    (0xFE00 ≤ a.toNat → a.toNat ≤ 0xFE9F → decodeAddr mapped a = .cell .oam (a.toNat - 0xFE00)) ∧
    (0xFEA0 ≤ a.toNat → a.toNat ≤ 0xFEFF → decodeAddr mapped a = .oamTail) ∧
    (0xFF00 ≤ a.toNat → a.toNat ≤ 0xFF7F → decodeAddr mapped a = .io) ∧
    (0xFF80 ≤ a.toNat → decodeAddr mapped a = .cell .hram (a.toNat - 0xFF80))

/-- R63, R74: a byte written to a writable address reads back; every address that names another byte reads as
before; no register, flag, overlay or run state changes; the canonical form stays. -/
def Obligations.WriteByteThenRead : Prop :=
  ∀ (s : State) (addr : Word) (v : Byte), s.memoryWf →
    StoredAt addr v s (writeByte s addr v) ∧ (writeByte s addr v).memoryWf ∧
    SameRegisters s (writeByte s addr v) ∧ SameControl s (writeByte s addr v)

/-- R52, R53, R58, R59: a write to BIOS, ROM, the OAM tail or I/O changes no state at all; the tail and I/O
read 0x00. -/
def Obligations.IgnoredWritesAndZeroReads : Prop :=
  ∀ (s : State) (addr : Word) (v : Byte),
    (addr.toNat < 0x8000 → writeByte s addr v = s) ∧
    (0xFEA0 ≤ addr.toNat → addr.toNat < 0xFF80 → writeByte s addr v = s ∧ (readByte s addr).1 = 0)

/-- R57: a byte stored through the main range of Work RAM reads back through the echo, and the other way round. -/
def Obligations.EchoAliasesWorkRam : Prop :=
  ∀ (s : State) (addr : Word) (v : Byte), s.memoryWf → 0xC000 ≤ addr.toNat → addr.toNat < 0xDE00 →
    (writeByte s addr v).peek (addr + 0x2000) = v ∧ (writeByte s (addr + 0x2000) v).peek addr = v ∧
    writeByte s (addr + 0x2000) v = writeByte s addr v

/-- R61, R62: a read returns what the address decodes to before the trigger, and its only side effect is that the
read of 0x0100 ends the overlay, under the read trigger. A second read returns the same and changes nothing (R71). -/
def Obligations.ReadByteAndTrigger : Prop :=
  ∀ (s : State) (addr : Word),
    (readByte s addr).1 = s.peek addr ∧
    (readByte s addr).2 = s.withOverlay (overlayAfterRead s addr) ∧
    readByte (readByte s addr).2 addr = ((readByte s addr).1, (readByte s addr).2)

/-- R64: a 16-bit read is two byte reads, low byte first, the second address wrapping; either read can end the
overlay; nothing else changes. -/
def Obligations.ReadShortLittleEndian : Prop :=
  ∀ (s : State) (addr : Word),
    (readShort s addr).1.toNat = (s.peek addr).toNat + 256 * (s.peek (addr + 1)).toNat ∧
    (readShort s addr).2 = s.withOverlay (overlayAfterRead s addr && overlayAfterRead s (addr + 1))

/-- R65: a 16-bit write is two byte writes, the low byte at the address and the high byte at the next, which wraps:
each lands where its own address is writable (the high byte of a write at 0xFFFF goes to 0x0000 and is ignored); no
other cell of any array changes, and nothing else of the state. Where both land, a 16-bit read gives the value back. -/
def Obligations.WriteShortLittleEndian : Prop :=
  ∀ (s : State) (addr : Word) (v : Word), s.memoryWf →
    (writableAddr addr → ((writeShort s addr v).peek addr).toNat = v.toNat % 256) ∧
    (writableAddr (addr + 1) → ((writeShort s addr v).peek (addr + 1)).toNat = v.toNat / 256) ∧
    (¬ writableAddr addr → writeShort s addr v = writeByte s (addr + 1) (hi8 v)) ∧
    (¬ writableAddr (addr + 1) → writeShort s addr v = writeByte s addr (lo8 v)) ∧
    (∀ r i, decodeAddr s.biosMapped addr ≠ .cell r i → decodeAddr s.biosMapped (addr + 1) ≠ .cell r i →
      Memory.read ((writeShort s addr v).array r) i = Memory.read (s.array r) i) ∧
    (∀ b, decodeAddr s.biosMapped b ≠ decodeAddr s.biosMapped addr →
      decodeAddr s.biosMapped b ≠ decodeAddr s.biosMapped (addr + 1) → (writeShort s addr v).peek b = s.peek b) ∧
    (writableAddr addr → writableAddr (addr + 1) → (readShort (writeShort s addr v) addr).1 = v) ∧
    (writeShort s addr v).memoryWf ∧ SameRegisters s (writeShort s addr v) ∧ SameControl s (writeShort s addr v)

/-- R242: the host's `disable_bios()` ends the overlay and changes nothing else, nothing at all where it is off
already; the low 256 addresses then read the ROM. -/
def Obligations.DisableBiosUncoversRom : Prop :=
  ∀ s : State, (disableBios s).biosMapped = false ∧ (s.biosMapped = false → disableBios s = s) ∧
    SameMemory s (disableBios s) ∧ SameRegisters s (disableBios s) ∧ (disableBios s).pc = s.pc ∧
    (disableBios s).run = s.run ∧ (disableBios s).cycles = s.cycles ∧
    (∀ addr, addr.toNat < 0x100 → (disableBios s).peek addr = Memory.read s.rom addr.toNat) ∧
    (∀ addr, 0x100 ≤ addr.toNat → (disableBios s).peek addr = s.peek addr)

/-- The ranges of addresses that one array backs at consecutive indexes (R51), each with the first address past it. -/
def arrayRanges (mapped : Bool) : List (Nat × Nat) :=
  (if mapped then [(0x0000, 0x0100), (0x0100, 0x8000)] else [(0x0000, 0x8000)]) ++
    [(0x8000, 0xA000), (0xA000, 0xC000), (0xC000, 0xE000), (0xE000, 0xFE00), (0xFE00, 0xFEA0), (0xFF80, 0x10000)]

/-- R66, R204: `fetch_region` fails for a span past the top of the address space and for a span with an address that
does not name the same array at the consecutive index. From an address that an array backs it succeeds exactly when
the span ends inside that address's range, the echo among them; from the OAM tail and I/O it fails (for an empty span
the model's choice, log entry 5). A read through a view is `read_byte` and a write is `write_byte`, which ROM and BIOS
ignore; the call itself reads nothing, so it does not end the overlay (the model's choice, log entry 14). -/
def Obligations.FetchRegionInsideOneArray : Prop :=
  (∀ (s : State) (addr : Word) (n : Nat), 0x10000 < addr.toNat + n →
    fetchRegion s addr n = .error (.invalidRegionSpan addr n)) ∧
  (∀ (s : State) (addr : Word) (n k : Nat), k < n → addr.toNat + n ≤ 0x10000 →
    (∀ r i, decodeAddr s.biosMapped addr = .cell r i →
      decodeAddr s.biosMapped (addr + BitVec.ofNat 16 k) ≠ .cell r (i + k)) →
    fetchRegion s addr n = .error (.invalidRegionSpan addr n)) ∧
  (∀ (s : State) (addr : Word) (n : Nat), ∀ p ∈ arrayRanges s.biosMapped, p.1 ≤ addr.toNat → addr.toNat < p.2 →
    (addr.toNat + n ≤ p.2 → fetchRegion s addr n = .ok { start := addr, length := n } ∧
      ∃ r i, ∀ k, k < n → s.peek (addr + BitVec.ofNat 16 k) = Memory.read (s.array r) (i + k)) ∧
    (p.2 < addr.toNat + n → fetchRegion s addr n = .error (.invalidRegionSpan addr n))) ∧
  (∀ (s : State) (addr : Word) (n : Nat), 0xFEA0 ≤ addr.toNat → addr.toNat < 0xFF80 →
    fetchRegion s addr n = .error (.invalidRegionSpan addr n)) ∧
  (∀ (s : State) (view : RegionView) (k : Nat) (v : Byte), k < view.length →
    readView s view k = some (s.peek (view.start + BitVec.ofNat 16 k),
      s.withOverlay (overlayAfterRead s (view.start + BitVec.ofNat 16 k))) ∧
    writeView s view k v = some (writeByte s (view.start + BitVec.ofNat 16 k) v) ∧
    ((view.start + BitVec.ofNat 16 k).toNat < 0x8000 → writeView s view k v = some s))

/-- R67, R203: every host access to an address of 0x10000 or more raises AddressOutOfBounds and halts the core, and
the address is not reduced; a 16-bit address never does. That a core already halted takes the newer reason is the
model's deduction (log entry 13). -/
def Obligations.WideAddressFaults : Prop :=
  ∀ (s : State) (a : Nat) (v : Byte) (w : Word),
    (0x10000 ≤ a →
      hostReadByte s a = .error (.addressOutOfBounds a) { s with run := .halted (.fault (.addressOutOfBounds a)) } ∧
      hostWriteByte s a v = .error (.addressOutOfBounds a) { s with run := .halted (.fault (.addressOutOfBounds a)) } ∧
      hostReadShort s a = .error (.addressOutOfBounds a) { s with run := .halted (.fault (.addressOutOfBounds a)) } ∧
      hostWriteShort s a w =
        .error (.addressOutOfBounds a) { s with run := .halted (.fault (.addressOutOfBounds a)) }) ∧
    (a < 0x10000 →
      hostReadByte s a = .ok (s.peek (BitVec.ofNat 16 a)) (readByte s (BitVec.ofNat 16 a)).2 ∧
      hostWriteByte s a v = .ok () (writeByte s (BitVec.ofNat 16 a) v) ∧
      hostReadShort s a =
        .ok (readShort s (BitVec.ofNat 16 a)).1 (readShort s (BitVec.ofNat 16 a)).2 ∧
      hostWriteShort s a w = .ok () (writeShort s (BitVec.ofNat 16 a) w))

/-! Registers and flags. -/

/-- R23, R24: a pair's high byte is its first-named register (F masked in AF); writing a pair writes both halves and
no other register; writing a half changes that register only, so the view shows it. SP is in no pair. -/
def Obligations.PairsAreViews : Prop :=
  ∀ (s : State) (v : Word) (x : Byte),
    ((s.reg16 .bc).toNat = s.b.toNat * 256 + s.c.toNat ∧ (s.reg16 .de).toNat = s.d.toNat * 256 + s.e.toNat ∧
      (s.reg16 .hl).toNat = s.h.toNat * 256 + s.l.toNat ∧ s.readAF.toNat = s.a.toNat * 256 + s.readF.toNat) ∧
    (∀ rr, ((s.setReg16 rr v).reg16 rr) = v ∧ SameReg8Outside (pairHalves rr) s (s.setReg16 rr v) ∧
      (s.setReg16 rr v).f = s.f ∧ (rr ≠ .sp → (s.setReg16 rr v).sp = s.sp) ∧
      SameMemory s (s.setReg16 rr v) ∧ SameControl s (s.setReg16 rr v)) ∧
    ((s.setReg16 .bc v).b.toNat = v.toNat / 256 ∧ (s.setReg16 .bc v).c.toNat = v.toNat % 256 ∧
      (s.setReg16 .de v).d.toNat = v.toNat / 256 ∧ (s.setReg16 .de v).e.toNat = v.toNat % 256 ∧
      (s.setReg16 .hl v).h.toNat = v.toNat / 256 ∧ (s.setReg16 .hl v).l.toNat = v.toNat % 256) ∧
    ((s.writeAF v).a.toNat = v.toNat / 256 ∧ (s.writeAF v).readF.toNat = v.toNat % 256 / 16 * 16 ∧
      SameOutsideRegs s (s.writeAF v) ∧ SameReg8Outside [.a] s (s.writeAF v)) ∧
    (∀ r, (s.setReg8 r x).reg8 r = x ∧ SameReg8Outside [r] s (s.setReg8 r x) ∧ (s.setReg8 r x).f = s.f ∧
      (s.setReg8 r x).sp = s.sp ∧ SameMemory s (s.setReg8 r x) ∧ SameControl s (s.setReg8 r x))

/-- R25: every write to F, direct, through AF or through a flag operation, keeps the low nibble zero; F always reads
so; and AF reads back with those four bits cleared. Nothing else changes, but A where AF is written. -/
def Obligations.FlagByteIsMasked : Prop :=
  ∀ (s : State) (v : Word) (x : Byte) (fl : Flag) (on : Bool),
    (s.writeAF v).readAF = (v &&& 0xFFF0#16) ∧ (s.writeF x).readF = (x &&& 0xF0#8) ∧ s.readF &&& 0x0F#8 = 0 ∧
    (s.writeF x).flagsWf ∧ (s.writeAF v).flagsWf ∧ (s.setFlag fl on).flagsWf ∧
    SameReg8Outside [] s (s.writeF x) ∧ SameOutsideRegs s (s.writeF x) ∧
    SameReg8Outside [.a] s (s.writeAF v) ∧ SameOutsideRegs s (s.writeAF v)

/-- R29, R30: `set` makes the named flag, at its bit of F, what it is told and leaves the other flags; `enable` sets
it and `disable` clears it; setting and then clearing a clear flag restores F. Nothing else changes. -/
def Obligations.FlagOperations : Prop :=
  ∀ (s : State) (fl : Flag) (on : Bool),
    (s.setFlag fl on).flag fl = on ∧ (∀ fl', fl' ≠ fl → (s.setFlag fl on).flag fl' = s.flag fl') ∧
    (s.setFlag fl on).flagsWf ∧ s.enableFlag fl = s.setFlag fl true ∧ s.disableFlag fl = s.setFlag fl false ∧
    (s.flag .z = s.f.getLsbD 7 ∧ s.flag .n = s.f.getLsbD 6 ∧ s.flag .h = s.f.getLsbD 5 ∧
      s.flag .c = s.f.getLsbD 4) ∧
    (s.flagsWf → s.flag fl = false → ((s.enableFlag fl).disableFlag fl).f = s.f) ∧
    SameReg8Outside [] s (s.setFlag fl on) ∧ SameOutsideRegs s (s.setFlag fl on)

/-! The instructions. Each statement says that the instruction completes, from every state, with which values, and
what it leaves alone; and which bytes it is. -/

/-- The opcode of INC r (R131). -/
def incByte : Reg8 → Byte
  | .b => 0x04 | .c => 0x0C | .d => 0x14 | .e => 0x1C | .h => 0x24 | .l => 0x2C | .a => 0x3C

/-- The opcode of DEC r (R133). -/
def decByte : Reg8 → Byte
  | .b => 0x05 | .c => 0x0D | .d => 0x15 | .e => 0x1D | .h => 0x25 | .l => 0x2D | .a => 0x3D

/-- The opcode of LD r,d8 (R175). -/
def loadByte : Reg8 → Byte
  | .b => 0x06 | .c => 0x0E | .d => 0x16 | .e => 0x1E | .h => 0x26 | .l => 0x2E | .a => 0x3E

/-- R190: NOP changes nothing but `cycles`; its step moves `pc` past the opcode, with the fetch's effect on the
overlay. -/
def Obligations.NopCompletes : Prop :=
  (∀ s : State, ∃ t, exec .nop s = .next t ∧ Retired .nop 4 s t ∧ SameRegisters s t ∧ UntouchedMemory s t ∧
    EncodedAs .nop [0x00]) ∧
  (∀ s : State, s.costsReal → s.run = .running → s.peek s.pc = 0x00#8 →
    step s = .next { afterFetch s 1 with cycles := s.cycles + instrCycles s.config .nop } ∧
    (afterFetch s 1).pc = s.pc + 1)

/-- R191: STOP halts with Stop, adds nothing to `cycles`, and changes nothing else, in both lengths. Its step moves
`pc` past the instruction, with the fetch's effect on the overlay, and reports Stopped; every later step reports
Halted and changes nothing; `reset()` resumes. -/
def Obligations.StopCompletes : Prop :=
  (∀ (ignored : Option Byte) (s : State), exec (.stop ignored) s = .next { s with run := .halted .stop }) ∧
  (∀ v, EncodedAs (.stop (some v)) [0x10, v]) ∧ EncodedAs (.stop none) [0x10] ∧
  (∀ s : State, s.run = .running → s.peek s.pc = 0x10#8 → ∃ t,
    step s = .next t ∧ t = { afterFetch s (match s.config.stopLength with | .one => 1 | .two => 2) with
      run := .halted .stop } ∧
    stepResult s = .stopped ∧ step t = .next t ∧ stepResult t = .halted .stop ∧ (resetCore t).run = .running)

/-- R131, R130: INC r; and over and over, it counts through all 256 values: after `k` of them the register has its
start value plus `k`, and Z is set exactly after the ones that give 0x00. -/
def Obligations.IncRegister : Prop :=
  ∀ (r : Reg8) (s : State),
    (∃ t, exec (Instr.incReg r) s = .next t ∧
      (t.reg8 r).toNat = ((s.reg8 r).toNat + 1) % 256 ∧
      t.flag .z = decide ((s.reg8 r).toNat = 0xFF) ∧ t.flag .n = false ∧
      t.flag .h = decide ((s.reg8 r).toNat % 16 = 0xF) ∧ t.flag .c = s.flag .c ∧ t.flagsWf ∧
      SameReg8Outside [r] s t ∧ t.sp = s.sp ∧ UntouchedMemory s t ∧ Retired (Instr.incReg r) 4 s t ∧
      EncodedAs (Instr.incReg r) [incByte r]) ∧
    ∀ k, ∃ t, execTimes (Instr.incReg r) k s = .next t ∧ (t.reg8 r).toNat = ((s.reg8 r).toNat + k) % 256 ∧
      (0 < k → (t.flag .z = true ↔ ((s.reg8 r).toNat + k) % 256 = 0)) ∧ t.flag .c = s.flag .c ∧
      SameReg8Outside [r] s t

/-- R133, R135: DEC r. -/
def Obligations.DecRegister : Prop :=
  ∀ (r : Reg8) (s : State), ∃ t, exec (Instr.decReg r) s = .next t ∧
    (t.reg8 r).toNat = ((s.reg8 r).toNat + 255) % 256 ∧
    t.flag .z = decide ((s.reg8 r).toNat = 1) ∧ t.flag .n = true ∧
    t.flag .h = decide ((s.reg8 r).toNat % 16 = 0) ∧ t.flag .c = s.flag .c ∧ t.flagsWf ∧
    SameReg8Outside [r] s t ∧ t.sp = s.sp ∧ UntouchedMemory s t ∧ Retired (Instr.decReg r) 4 s t ∧
    EncodedAs (Instr.decReg r) [decByte r]

/-- R132: INC (HL): the byte read at HL plus 1 is stored at HL where the address is writable; the flags come from the
byte read either way; a read of 0x0100 ends the overlay. -/
def Obligations.IncMemory : Prop :=
  ∀ s : State, s.memoryWf → ∃ t, exec .incMemHl s = .next t ∧
    StoredAt (s.reg16 .hl) (BitVec.ofNat 8 ((s.peek (s.reg16 .hl)).toNat + 1)) s t ∧
    t.biosMapped = overlayAfterRead s (s.reg16 .hl) ∧
    t.flag .z = decide ((s.peek (s.reg16 .hl)).toNat = 0xFF) ∧ t.flag .n = false ∧
    t.flag .h = decide ((s.peek (s.reg16 .hl)).toNat % 16 = 0xF) ∧ t.flag .c = s.flag .c ∧ t.flagsWf ∧
    SameReg8Outside [] s t ∧ t.sp = s.sp ∧ Retired .incMemHl 8 s t ∧ EncodedAs .incMemHl [0x34]

/-- R134: DEC (HL), as INC (HL) with 1 subtracted. -/
def Obligations.DecMemory : Prop :=
  ∀ s : State, s.memoryWf → ∃ t, exec .decMemHl s = .next t ∧
    StoredAt (s.reg16 .hl) (BitVec.ofNat 8 ((s.peek (s.reg16 .hl)).toNat + 255)) s t ∧
    t.biosMapped = overlayAfterRead s (s.reg16 .hl) ∧
    t.flag .z = decide ((s.peek (s.reg16 .hl)).toNat = 1) ∧ t.flag .n = true ∧
    t.flag .h = decide ((s.peek (s.reg16 .hl)).toNat % 16 = 0) ∧ t.flag .c = s.flag .c ∧ t.flagsWf ∧
    SameReg8Outside [] s t ∧ t.sp = s.sp ∧ Retired .decMemHl 8 s t ∧ EncodedAs .decMemHl [0x35]

/-- R150: INC rr, on each pair and on SP; no flag changes. -/
def Obligations.IncPair : Prop :=
  ∀ (rr : Reg16) (s : State), ∃ t, exec (Instr.incPair rr) s = .next t ∧
    (t.reg16 rr).toNat = ((s.reg16 rr).toNat + 1) % 65536 ∧ t.f = s.f ∧
    SameReg8Outside (pairHalves rr) s t ∧ (rr ≠ .sp → t.sp = s.sp) ∧ UntouchedMemory s t ∧
    Retired (Instr.incPair rr) 8 s t ∧
    EncodedAs (Instr.incPair rr) [match rr with | .bc => 0x03 | .de => 0x13 | .hl => 0x23 | .sp => 0x33]

/-- R151: DEC rr, on each pair and on SP; no flag changes. -/
def Obligations.DecPair : Prop :=
  ∀ (rr : Reg16) (s : State), ∃ t, exec (Instr.decPair rr) s = .next t ∧
    (t.reg16 rr).toNat = ((s.reg16 rr).toNat + 65535) % 65536 ∧ t.f = s.f ∧
    SameReg8Outside (pairHalves rr) s t ∧ (rr ≠ .sp → t.sp = s.sp) ∧ UntouchedMemory s t ∧
    Retired (Instr.decPair rr) 8 s t ∧
    EncodedAs (Instr.decPair rr) [match rr with | .bc => 0x0B | .de => 0x1B | .hl => 0x2B | .sp => 0x3B]

/-- R152, R153: ADD HL,rr, with rr = HL doubling it; the carries come from the operands; Z is kept. -/
def Obligations.AddPairToHl : Prop :=
  ∀ (rr : Reg16) (s : State), ∃ t, exec (Instr.addPair rr) s = .next t ∧
    (t.reg16 .hl).toNat = ((s.reg16 .hl).toNat + (s.reg16 rr).toNat) % 65536 ∧
    t.flag .z = s.flag .z ∧ t.flag .n = false ∧
    t.flag .h = decide ((s.reg16 .hl).toNat % 4096 + (s.reg16 rr).toNat % 4096 ≥ 4096) ∧
    t.flag .c = decide ((s.reg16 .hl).toNat + (s.reg16 rr).toNat ≥ 65536) ∧ t.flagsWf ∧
    SameReg8Outside [.h, .l] s t ∧ t.sp = s.sp ∧ UntouchedMemory s t ∧ Retired (Instr.addPair rr) 8 s t ∧
    EncodedAs (Instr.addPair rr) [match rr with | .bc => 0x09 | .de => 0x19 | .hl => 0x29 | .sp => 0x39]

/-- R160, R162: RLCA: bit 7 comes round to bit 0 and into C; the other flags are cleared. -/
def Obligations.RotateLeftCircular : Prop :=
  ∀ s : State, ∃ t, exec .rlca s = .next t ∧ t.a = s.a.rotateLeft 1 ∧
    t.flag .c = s.a.getLsbD 7 ∧ t.flag .z = false ∧ t.flag .n = false ∧ t.flag .h = false ∧ t.flagsWf ∧
    SameReg8Outside [.a] s t ∧ t.sp = s.sp ∧ UntouchedMemory s t ∧ Retired .rlca 4 s t ∧ EncodedAs .rlca [0x07]

/-- R161, R163: RRCA: bit 0 comes round to bit 7 and into C; the other flags are cleared. -/
def Obligations.RotateRightCircular : Prop :=
  ∀ s : State, ∃ t, exec .rrca s = .next t ∧ t.a = s.a.rotateRight 1 ∧
    t.flag .c = s.a.getLsbD 0 ∧ t.flag .z = false ∧ t.flag .n = false ∧ t.flag .h = false ∧ t.flagsWf ∧
    SameReg8Outside [.a] s t ∧ t.sp = s.sp ∧ UntouchedMemory s t ∧ Retired .rrca 4 s t ∧ EncodedAs .rrca [0x0F]

/-- R170, R92: LD rr,d16; the low byte of the immediate comes first in memory. -/
def Obligations.LoadPairImmediate : Prop :=
  ∀ (rr : Reg16) (lo hi : Byte) (s : State), ∃ t,
    exec (Instr.loadPair rr (concat hi lo)) s = .next t ∧ (t.reg16 rr).toNat = hi.toNat * 256 + lo.toNat ∧
    t.f = s.f ∧ SameReg8Outside (pairHalves rr) s t ∧ (rr ≠ .sp → t.sp = s.sp) ∧ UntouchedMemory s t ∧
    Retired (Instr.loadPair rr (concat hi lo)) 12 s t ∧
    EncodedAs (Instr.loadPair rr (concat hi lo))
      [(match rr with | .bc => 0x01 | .de => 0x11 | .hl => 0x21 | .sp => 0x31), lo, hi]

/-- R171, R172: LD (BC),A and LD (DE),A store A at the pair's address; nothing else changes. -/
def Obligations.StoreAIndirect : Prop :=
  ∀ s : State, s.memoryWf →
    (∃ t, exec .ldMemBcA s = .next t ∧ StoredAt (s.reg16 .bc) s.a s t ∧ t.biosMapped = s.biosMapped ∧
      SameRegisters s t ∧ Retired .ldMemBcA 8 s t ∧ EncodedAs .ldMemBcA [0x02]) ∧
    (∃ t, exec .ldMemDeA s = .next t ∧ StoredAt (s.reg16 .de) s.a s t ∧ t.biosMapped = s.biosMapped ∧
      SameRegisters s t ∧ Retired .ldMemDeA 8 s t ∧ EncodedAs .ldMemDeA [0x12])

/-- R173, R174: LD A,(BC) and LD A,(DE) load the byte at the pair's address; a read of 0x0100 ends the overlay; no
byte of memory changes. -/
def Obligations.LoadAIndirect : Prop :=
  ∀ s : State,
    (∃ t, exec .ldAMemBc s = .next t ∧ t.a = s.peek (s.reg16 .bc) ∧
      t.biosMapped = overlayAfterRead s (s.reg16 .bc) ∧ SameMemory s t ∧
      (∀ addr, t.peek addr = (s.withOverlay t.biosMapped).peek addr) ∧
      t.f = s.f ∧ SameReg8Outside [.a] s t ∧ t.sp = s.sp ∧ Retired .ldAMemBc 8 s t ∧ EncodedAs .ldAMemBc [0x0A]) ∧
    (∃ t, exec .ldAMemDe s = .next t ∧ t.a = s.peek (s.reg16 .de) ∧
      t.biosMapped = overlayAfterRead s (s.reg16 .de) ∧ SameMemory s t ∧
      (∀ addr, t.peek addr = (s.withOverlay t.biosMapped).peek addr) ∧
      t.f = s.f ∧ SameReg8Outside [.a] s t ∧ t.sp = s.sp ∧ Retired .ldAMemDe 8 s t ∧ EncodedAs .ldAMemDe [0x1A])

/-- R175: LD r,d8. -/
def Obligations.LoadRegisterImmediate : Prop :=
  ∀ (r : Reg8) (v : Byte) (s : State), ∃ t, exec (Instr.loadReg r v) s = .next t ∧ t.reg8 r = v ∧ t.f = s.f ∧
    SameReg8Outside [r] s t ∧ t.sp = s.sp ∧ UntouchedMemory s t ∧ Retired (Instr.loadReg r v) 8 s t ∧
    EncodedAs (Instr.loadReg r v) [loadByte r, v]

/-- R176: LD (HL),d8 stores the immediate at HL; nothing else changes. -/
def Obligations.StoreImmediate : Prop :=
  ∀ (v : Byte) (s : State), s.memoryWf → ∃ t, exec (.ldMemHlD8 v) s = .next t ∧
    StoredAt (s.reg16 .hl) v s t ∧ t.biosMapped = s.biosMapped ∧ SameRegisters s t ∧
    Retired (.ldMemHlD8 v) 8 s t ∧ EncodedAs (.ldMemHlD8 v) [0x36, v]

/-- R94, R9: an override of `CYCLES` is the cost of every instruction but STOP, whose count is 0; a cost of at least
4 keeps the core running. -/
def Obligations.CycleOverride : Prop :=
  ∀ (i : Instr) (s : State) (n : Nat), s.config.cycles.lookup i.opcode = some n → 4 ≤ n →
    (∀ ignored, i ≠ .stop ignored) →
    ∃ t, exec i s = .next t ∧ t.cycles = s.cycles + n ∧ t.run = s.run

/-- R70: of the admitted instructions only the five stores change a byte of memory; from any state every other
instruction leaves every array as it is. -/
def Obligations.OnlyStoresWriteMemory : Prop :=
  ∀ (i : Instr) (s t : State), exec i s = .next t →
    i ≠ .ldMemBcA → i ≠ .ldMemDeA → (∀ v, i ≠ .ldMemHlD8 v) → i ≠ .incMemHl → i ≠ .decMemHl → SameMemory s t

/-- R77: a byte stored by one step is what a later fetch reads: LD (HL),d8 at the address of the next instruction
makes the next step run the stored NOP, INC B or other one-byte instruction. -/
def Obligations.StoreIsSeenByNextFetch : Prop :=
  ∀ (s t : State) (v : Byte) (i : Instr), s.memoryWf → s.costsReal → s.run = .running →
    decode s.config.stopLength [s.peek s.pc, s.peek (s.pc + 1), s.peek (s.pc + 2)] =
      .ok (.ldMemHlD8 v, [s.peek (s.pc + 2)]) →
    s.reg16 .hl = s.pc + 2 → writableAddr (s.pc + 2) → encode i = [v] → i.wellFormed s.config.stopLength = true →
    step s = .next t → step t = exec i (afterFetch t 1)
end

