-- ==== Sys2Proof/Laws/State.lean ====
section
/-! SUPPORT. One lemma for each field, or view of the fields, and each named update that leaves it alone or sets it,
so that no proof unfolds a record update. -/

namespace Sys2Proof.Machine

variable (s : State)

/-! `setReg8` -/

@[simp] theorem setReg8_f (r : Reg8) (v : Byte) : (s.setReg8 r v).f = s.f := by
  cases r <;> rfl
@[simp] theorem setReg8_sp (r : Reg8) (v : Byte) : (s.setReg8 r v).sp = s.sp := by
  cases r <;> rfl
@[simp] theorem setReg8_pc (r : Reg8) (v : Byte) : (s.setReg8 r v).pc = s.pc := by
  cases r <;> rfl
@[simp] theorem setReg8_bios (r : Reg8) (v : Byte) : (s.setReg8 r v).bios = s.bios := by
  cases r <;> rfl
@[simp] theorem setReg8_rom (r : Reg8) (v : Byte) : (s.setReg8 r v).rom = s.rom := by
  cases r <;> rfl
@[simp] theorem setReg8_vram (r : Reg8) (v : Byte) : (s.setReg8 r v).vram = s.vram := by
  cases r <;> rfl
@[simp] theorem setReg8_eram (r : Reg8) (v : Byte) : (s.setReg8 r v).eram = s.eram := by
  cases r <;> rfl
@[simp] theorem setReg8_wram (r : Reg8) (v : Byte) : (s.setReg8 r v).wram = s.wram := by
  cases r <;> rfl
@[simp] theorem setReg8_oam (r : Reg8) (v : Byte) : (s.setReg8 r v).oam = s.oam := by
  cases r <;> rfl
@[simp] theorem setReg8_hram (r : Reg8) (v : Byte) : (s.setReg8 r v).hram = s.hram := by
  cases r <;> rfl
@[simp] theorem setReg8_biosMapped (r : Reg8) (v : Byte) : (s.setReg8 r v).biosMapped = s.biosMapped := by
  cases r <;> rfl
@[simp] theorem setReg8_run (r : Reg8) (v : Byte) : (s.setReg8 r v).run = s.run := by
  cases r <;> rfl
@[simp] theorem setReg8_cycles (r : Reg8) (v : Byte) : (s.setReg8 r v).cycles = s.cycles := by
  cases r <;> rfl
@[simp] theorem setReg8_config (r : Reg8) (v : Byte) : (s.setReg8 r v).config = s.config := by
  cases r <;> rfl
@[simp] theorem setReg8_flag (r : Reg8) (v : Byte) (fl' : Flag) : (s.setReg8 r v).flag fl' = s.flag fl' := by
  simp [State.flag]
@[simp] theorem setReg8_readF (r : Reg8) (v : Byte) : (s.setReg8 r v).readF = s.readF := by
  simp [State.readF]
@[simp] theorem setReg8_array (r : Reg8) (v : Byte) (r' : Region) : (s.setReg8 r v).array r' = s.array r' := by
  cases r' <;> simp [State.array]

/-! `setReg16` -/

@[simp] theorem setReg16_a (rr : Reg16) (v : Word) : (s.setReg16 rr v).a = s.a := by
  cases rr <;> rfl
@[simp] theorem setReg16_f (rr : Reg16) (v : Word) : (s.setReg16 rr v).f = s.f := by
  cases rr <;> rfl
@[simp] theorem setReg16_pc (rr : Reg16) (v : Word) : (s.setReg16 rr v).pc = s.pc := by
  cases rr <;> rfl
@[simp] theorem setReg16_bios (rr : Reg16) (v : Word) : (s.setReg16 rr v).bios = s.bios := by
  cases rr <;> rfl
@[simp] theorem setReg16_rom (rr : Reg16) (v : Word) : (s.setReg16 rr v).rom = s.rom := by
  cases rr <;> rfl
@[simp] theorem setReg16_vram (rr : Reg16) (v : Word) : (s.setReg16 rr v).vram = s.vram := by
  cases rr <;> rfl
@[simp] theorem setReg16_eram (rr : Reg16) (v : Word) : (s.setReg16 rr v).eram = s.eram := by
  cases rr <;> rfl
@[simp] theorem setReg16_wram (rr : Reg16) (v : Word) : (s.setReg16 rr v).wram = s.wram := by
  cases rr <;> rfl
@[simp] theorem setReg16_oam (rr : Reg16) (v : Word) : (s.setReg16 rr v).oam = s.oam := by
  cases rr <;> rfl
@[simp] theorem setReg16_hram (rr : Reg16) (v : Word) : (s.setReg16 rr v).hram = s.hram := by
  cases rr <;> rfl
@[simp] theorem setReg16_biosMapped (rr : Reg16) (v : Word) : (s.setReg16 rr v).biosMapped = s.biosMapped := by
  cases rr <;> rfl
@[simp] theorem setReg16_run (rr : Reg16) (v : Word) : (s.setReg16 rr v).run = s.run := by
  cases rr <;> rfl
@[simp] theorem setReg16_cycles (rr : Reg16) (v : Word) : (s.setReg16 rr v).cycles = s.cycles := by
  cases rr <;> rfl
@[simp] theorem setReg16_config (rr : Reg16) (v : Word) : (s.setReg16 rr v).config = s.config := by
  cases rr <;> rfl
@[simp] theorem setReg16_flag (rr : Reg16) (v : Word) (fl' : Flag) : (s.setReg16 rr v).flag fl' = s.flag fl' := by
  simp [State.flag]
@[simp] theorem setReg16_readF (rr : Reg16) (v : Word) : (s.setReg16 rr v).readF = s.readF := by
  simp [State.readF]
@[simp] theorem setReg16_array (rr : Reg16) (v : Word) (r' : Region) : (s.setReg16 rr v).array r' = s.array r' := by
  cases r' <;> simp [State.array]

/-! `writeF` -/

@[simp] theorem writeF_a (v : Byte) : (s.writeF v).a = s.a := rfl
@[simp] theorem writeF_b (v : Byte) : (s.writeF v).b = s.b := rfl
@[simp] theorem writeF_c (v : Byte) : (s.writeF v).c = s.c := rfl
@[simp] theorem writeF_d (v : Byte) : (s.writeF v).d = s.d := rfl
@[simp] theorem writeF_e (v : Byte) : (s.writeF v).e = s.e := rfl
@[simp] theorem writeF_h (v : Byte) : (s.writeF v).h = s.h := rfl
@[simp] theorem writeF_l (v : Byte) : (s.writeF v).l = s.l := rfl
@[simp] theorem writeF_sp (v : Byte) : (s.writeF v).sp = s.sp := rfl
@[simp] theorem writeF_pc (v : Byte) : (s.writeF v).pc = s.pc := rfl
@[simp] theorem writeF_bios (v : Byte) : (s.writeF v).bios = s.bios := rfl
@[simp] theorem writeF_rom (v : Byte) : (s.writeF v).rom = s.rom := rfl
@[simp] theorem writeF_vram (v : Byte) : (s.writeF v).vram = s.vram := rfl
@[simp] theorem writeF_eram (v : Byte) : (s.writeF v).eram = s.eram := rfl
@[simp] theorem writeF_wram (v : Byte) : (s.writeF v).wram = s.wram := rfl
@[simp] theorem writeF_oam (v : Byte) : (s.writeF v).oam = s.oam := rfl
@[simp] theorem writeF_hram (v : Byte) : (s.writeF v).hram = s.hram := rfl
@[simp] theorem writeF_biosMapped (v : Byte) : (s.writeF v).biosMapped = s.biosMapped := rfl
@[simp] theorem writeF_run (v : Byte) : (s.writeF v).run = s.run := rfl
@[simp] theorem writeF_cycles (v : Byte) : (s.writeF v).cycles = s.cycles := rfl
@[simp] theorem writeF_config (v : Byte) : (s.writeF v).config = s.config := rfl
@[simp] theorem writeF_reg8 (v : Byte) (r' : Reg8) : (s.writeF v).reg8 r' = s.reg8 r' := by
  cases r' <;> rfl
@[simp] theorem writeF_reg16 (v : Byte) (rr' : Reg16) : (s.writeF v).reg16 rr' = s.reg16 rr' := by
  cases rr' <;> rfl
@[simp] theorem writeF_array (v : Byte) (r' : Region) : (s.writeF v).array r' = s.array r' := by
  cases r' <;> rfl

/-! `setFlag` -/

@[simp] theorem setFlag_a (fl : Flag) (on : Bool) : (s.setFlag fl on).a = s.a := rfl
@[simp] theorem setFlag_b (fl : Flag) (on : Bool) : (s.setFlag fl on).b = s.b := rfl
@[simp] theorem setFlag_c (fl : Flag) (on : Bool) : (s.setFlag fl on).c = s.c := rfl
@[simp] theorem setFlag_d (fl : Flag) (on : Bool) : (s.setFlag fl on).d = s.d := rfl
@[simp] theorem setFlag_e (fl : Flag) (on : Bool) : (s.setFlag fl on).e = s.e := rfl
@[simp] theorem setFlag_h (fl : Flag) (on : Bool) : (s.setFlag fl on).h = s.h := rfl
@[simp] theorem setFlag_l (fl : Flag) (on : Bool) : (s.setFlag fl on).l = s.l := rfl
@[simp] theorem setFlag_sp (fl : Flag) (on : Bool) : (s.setFlag fl on).sp = s.sp := rfl
@[simp] theorem setFlag_pc (fl : Flag) (on : Bool) : (s.setFlag fl on).pc = s.pc := rfl
@[simp] theorem setFlag_bios (fl : Flag) (on : Bool) : (s.setFlag fl on).bios = s.bios := rfl
@[simp] theorem setFlag_rom (fl : Flag) (on : Bool) : (s.setFlag fl on).rom = s.rom := rfl
@[simp] theorem setFlag_vram (fl : Flag) (on : Bool) : (s.setFlag fl on).vram = s.vram := rfl
@[simp] theorem setFlag_eram (fl : Flag) (on : Bool) : (s.setFlag fl on).eram = s.eram := rfl
@[simp] theorem setFlag_wram (fl : Flag) (on : Bool) : (s.setFlag fl on).wram = s.wram := rfl
@[simp] theorem setFlag_oam (fl : Flag) (on : Bool) : (s.setFlag fl on).oam = s.oam := rfl
@[simp] theorem setFlag_hram (fl : Flag) (on : Bool) : (s.setFlag fl on).hram = s.hram := rfl
@[simp] theorem setFlag_biosMapped (fl : Flag) (on : Bool) : (s.setFlag fl on).biosMapped = s.biosMapped := rfl
@[simp] theorem setFlag_run (fl : Flag) (on : Bool) : (s.setFlag fl on).run = s.run := rfl
@[simp] theorem setFlag_cycles (fl : Flag) (on : Bool) : (s.setFlag fl on).cycles = s.cycles := rfl
@[simp] theorem setFlag_config (fl : Flag) (on : Bool) : (s.setFlag fl on).config = s.config := rfl
@[simp] theorem setFlag_reg8 (fl : Flag) (on : Bool) (r' : Reg8) : (s.setFlag fl on).reg8 r' = s.reg8 r' := by
  cases r' <;> rfl
@[simp] theorem setFlag_reg16 (fl : Flag) (on : Bool) (rr' : Reg16) : (s.setFlag fl on).reg16 rr' = s.reg16 rr' := by
  cases rr' <;> rfl
@[simp] theorem setFlag_array (fl : Flag) (on : Bool) (r' : Region) : (s.setFlag fl on).array r' = s.array r' := by
  cases r' <;> rfl

/-! `setZNH` -/

@[simp] theorem setZNH_a (z n h : Bool) : (s.setZNH z n h).a = s.a := rfl
@[simp] theorem setZNH_b (z n h : Bool) : (s.setZNH z n h).b = s.b := rfl
@[simp] theorem setZNH_c (z n h : Bool) : (s.setZNH z n h).c = s.c := rfl
@[simp] theorem setZNH_d (z n h : Bool) : (s.setZNH z n h).d = s.d := rfl
@[simp] theorem setZNH_e (z n h : Bool) : (s.setZNH z n h).e = s.e := rfl
@[simp] theorem setZNH_h (z n h : Bool) : (s.setZNH z n h).h = s.h := rfl
@[simp] theorem setZNH_l (z n h : Bool) : (s.setZNH z n h).l = s.l := rfl
@[simp] theorem setZNH_sp (z n h : Bool) : (s.setZNH z n h).sp = s.sp := rfl
@[simp] theorem setZNH_pc (z n h : Bool) : (s.setZNH z n h).pc = s.pc := rfl
@[simp] theorem setZNH_bios (z n h : Bool) : (s.setZNH z n h).bios = s.bios := rfl
@[simp] theorem setZNH_rom (z n h : Bool) : (s.setZNH z n h).rom = s.rom := rfl
@[simp] theorem setZNH_vram (z n h : Bool) : (s.setZNH z n h).vram = s.vram := rfl
@[simp] theorem setZNH_eram (z n h : Bool) : (s.setZNH z n h).eram = s.eram := rfl
@[simp] theorem setZNH_wram (z n h : Bool) : (s.setZNH z n h).wram = s.wram := rfl
@[simp] theorem setZNH_oam (z n h : Bool) : (s.setZNH z n h).oam = s.oam := rfl
@[simp] theorem setZNH_hram (z n h : Bool) : (s.setZNH z n h).hram = s.hram := rfl
@[simp] theorem setZNH_biosMapped (z n h : Bool) : (s.setZNH z n h).biosMapped = s.biosMapped := rfl
@[simp] theorem setZNH_run (z n h : Bool) : (s.setZNH z n h).run = s.run := rfl
@[simp] theorem setZNH_cycles (z n h : Bool) : (s.setZNH z n h).cycles = s.cycles := rfl
@[simp] theorem setZNH_config (z n h : Bool) : (s.setZNH z n h).config = s.config := rfl
@[simp] theorem setZNH_reg8 (z n h : Bool) (r' : Reg8) : (s.setZNH z n h).reg8 r' = s.reg8 r' := by
  cases r' <;> rfl
@[simp] theorem setZNH_reg16 (z n h : Bool) (rr' : Reg16) : (s.setZNH z n h).reg16 rr' = s.reg16 rr' := by
  cases rr' <;> rfl
@[simp] theorem setZNH_array (z n h : Bool) (r' : Region) : (s.setZNH z n h).array r' = s.array r' := by
  cases r' <;> rfl

/-! `setNHC` -/

@[simp] theorem setNHC_a (n h c : Bool) : (s.setNHC n h c).a = s.a := rfl
@[simp] theorem setNHC_b (n h c : Bool) : (s.setNHC n h c).b = s.b := rfl
@[simp] theorem setNHC_c (n h c : Bool) : (s.setNHC n h c).c = s.c := rfl
@[simp] theorem setNHC_d (n h c : Bool) : (s.setNHC n h c).d = s.d := rfl
@[simp] theorem setNHC_e (n h c : Bool) : (s.setNHC n h c).e = s.e := rfl
@[simp] theorem setNHC_h (n h c : Bool) : (s.setNHC n h c).h = s.h := rfl
@[simp] theorem setNHC_l (n h c : Bool) : (s.setNHC n h c).l = s.l := rfl
@[simp] theorem setNHC_sp (n h c : Bool) : (s.setNHC n h c).sp = s.sp := rfl
@[simp] theorem setNHC_pc (n h c : Bool) : (s.setNHC n h c).pc = s.pc := rfl
@[simp] theorem setNHC_bios (n h c : Bool) : (s.setNHC n h c).bios = s.bios := rfl
@[simp] theorem setNHC_rom (n h c : Bool) : (s.setNHC n h c).rom = s.rom := rfl
@[simp] theorem setNHC_vram (n h c : Bool) : (s.setNHC n h c).vram = s.vram := rfl
@[simp] theorem setNHC_eram (n h c : Bool) : (s.setNHC n h c).eram = s.eram := rfl
@[simp] theorem setNHC_wram (n h c : Bool) : (s.setNHC n h c).wram = s.wram := rfl
@[simp] theorem setNHC_oam (n h c : Bool) : (s.setNHC n h c).oam = s.oam := rfl
@[simp] theorem setNHC_hram (n h c : Bool) : (s.setNHC n h c).hram = s.hram := rfl
@[simp] theorem setNHC_biosMapped (n h c : Bool) : (s.setNHC n h c).biosMapped = s.biosMapped := rfl
@[simp] theorem setNHC_run (n h c : Bool) : (s.setNHC n h c).run = s.run := rfl
@[simp] theorem setNHC_cycles (n h c : Bool) : (s.setNHC n h c).cycles = s.cycles := rfl
@[simp] theorem setNHC_config (n h c : Bool) : (s.setNHC n h c).config = s.config := rfl
@[simp] theorem setNHC_reg8 (n h c : Bool) (r' : Reg8) : (s.setNHC n h c).reg8 r' = s.reg8 r' := by
  cases r' <;> rfl
@[simp] theorem setNHC_reg16 (n h c : Bool) (rr' : Reg16) : (s.setNHC n h c).reg16 rr' = s.reg16 rr' := by
  cases rr' <;> rfl
@[simp] theorem setNHC_array (n h c : Bool) (r' : Region) : (s.setNHC n h c).array r' = s.array r' := by
  cases r' <;> rfl

/-! `setZNHC` -/

@[simp] theorem setZNHC_a (z n h c : Bool) : (s.setZNHC z n h c).a = s.a := rfl
@[simp] theorem setZNHC_b (z n h c : Bool) : (s.setZNHC z n h c).b = s.b := rfl
@[simp] theorem setZNHC_c (z n h c : Bool) : (s.setZNHC z n h c).c = s.c := rfl
@[simp] theorem setZNHC_d (z n h c : Bool) : (s.setZNHC z n h c).d = s.d := rfl
@[simp] theorem setZNHC_e (z n h c : Bool) : (s.setZNHC z n h c).e = s.e := rfl
@[simp] theorem setZNHC_h (z n h c : Bool) : (s.setZNHC z n h c).h = s.h := rfl
@[simp] theorem setZNHC_l (z n h c : Bool) : (s.setZNHC z n h c).l = s.l := rfl
@[simp] theorem setZNHC_sp (z n h c : Bool) : (s.setZNHC z n h c).sp = s.sp := rfl
@[simp] theorem setZNHC_pc (z n h c : Bool) : (s.setZNHC z n h c).pc = s.pc := rfl
@[simp] theorem setZNHC_bios (z n h c : Bool) : (s.setZNHC z n h c).bios = s.bios := rfl
@[simp] theorem setZNHC_rom (z n h c : Bool) : (s.setZNHC z n h c).rom = s.rom := rfl
@[simp] theorem setZNHC_vram (z n h c : Bool) : (s.setZNHC z n h c).vram = s.vram := rfl
@[simp] theorem setZNHC_eram (z n h c : Bool) : (s.setZNHC z n h c).eram = s.eram := rfl
@[simp] theorem setZNHC_wram (z n h c : Bool) : (s.setZNHC z n h c).wram = s.wram := rfl
@[simp] theorem setZNHC_oam (z n h c : Bool) : (s.setZNHC z n h c).oam = s.oam := rfl
@[simp] theorem setZNHC_hram (z n h c : Bool) : (s.setZNHC z n h c).hram = s.hram := rfl
@[simp] theorem setZNHC_biosMapped (z n h c : Bool) : (s.setZNHC z n h c).biosMapped = s.biosMapped := rfl
@[simp] theorem setZNHC_run (z n h c : Bool) : (s.setZNHC z n h c).run = s.run := rfl
@[simp] theorem setZNHC_cycles (z n h c : Bool) : (s.setZNHC z n h c).cycles = s.cycles := rfl
@[simp] theorem setZNHC_config (z n h c : Bool) : (s.setZNHC z n h c).config = s.config := rfl
@[simp] theorem setZNHC_reg8 (z n h c : Bool) (r' : Reg8) : (s.setZNHC z n h c).reg8 r' = s.reg8 r' := by
  cases r' <;> rfl
@[simp] theorem setZNHC_reg16 (z n h c : Bool) (rr' : Reg16) : (s.setZNHC z n h c).reg16 rr' = s.reg16 rr' := by
  cases rr' <;> rfl
@[simp] theorem setZNHC_array (z n h c : Bool) (r' : Region) : (s.setZNHC z n h c).array r' = s.array r' := by
  cases r' <;> rfl

/-! `setPc` -/

@[simp] theorem setPc_a (v : Word) : (s.setPc v).a = s.a := rfl
@[simp] theorem setPc_b (v : Word) : (s.setPc v).b = s.b := rfl
@[simp] theorem setPc_c (v : Word) : (s.setPc v).c = s.c := rfl
@[simp] theorem setPc_d (v : Word) : (s.setPc v).d = s.d := rfl
@[simp] theorem setPc_e (v : Word) : (s.setPc v).e = s.e := rfl
@[simp] theorem setPc_h (v : Word) : (s.setPc v).h = s.h := rfl
@[simp] theorem setPc_l (v : Word) : (s.setPc v).l = s.l := rfl
@[simp] theorem setPc_f (v : Word) : (s.setPc v).f = s.f := rfl
@[simp] theorem setPc_sp (v : Word) : (s.setPc v).sp = s.sp := rfl
@[simp] theorem setPc_bios (v : Word) : (s.setPc v).bios = s.bios := rfl
@[simp] theorem setPc_rom (v : Word) : (s.setPc v).rom = s.rom := rfl
@[simp] theorem setPc_vram (v : Word) : (s.setPc v).vram = s.vram := rfl
@[simp] theorem setPc_eram (v : Word) : (s.setPc v).eram = s.eram := rfl
@[simp] theorem setPc_wram (v : Word) : (s.setPc v).wram = s.wram := rfl
@[simp] theorem setPc_oam (v : Word) : (s.setPc v).oam = s.oam := rfl
@[simp] theorem setPc_hram (v : Word) : (s.setPc v).hram = s.hram := rfl
@[simp] theorem setPc_biosMapped (v : Word) : (s.setPc v).biosMapped = s.biosMapped := rfl
@[simp] theorem setPc_run (v : Word) : (s.setPc v).run = s.run := rfl
@[simp] theorem setPc_cycles (v : Word) : (s.setPc v).cycles = s.cycles := rfl
@[simp] theorem setPc_config (v : Word) : (s.setPc v).config = s.config := rfl
@[simp] theorem setPc_reg8 (v : Word) (r' : Reg8) : (s.setPc v).reg8 r' = s.reg8 r' := by
  cases r' <;> rfl
@[simp] theorem setPc_reg16 (v : Word) (rr' : Reg16) : (s.setPc v).reg16 rr' = s.reg16 rr' := by
  cases rr' <;> rfl
@[simp] theorem setPc_flag (v : Word) (fl' : Flag) : (s.setPc v).flag fl' = s.flag fl' := rfl
@[simp] theorem setPc_readF (v : Word) : (s.setPc v).readF = s.readF := rfl
@[simp] theorem setPc_array (v : Word) (r' : Region) : (s.setPc v).array r' = s.array r' := by
  cases r' <;> rfl

/-! `setArray` -/

@[simp] theorem setArray_a (r : Region) (m : Memory) : (s.setArray r m).a = s.a := by
  cases r <;> rfl
@[simp] theorem setArray_b (r : Region) (m : Memory) : (s.setArray r m).b = s.b := by
  cases r <;> rfl
@[simp] theorem setArray_c (r : Region) (m : Memory) : (s.setArray r m).c = s.c := by
  cases r <;> rfl
@[simp] theorem setArray_d (r : Region) (m : Memory) : (s.setArray r m).d = s.d := by
  cases r <;> rfl
@[simp] theorem setArray_e (r : Region) (m : Memory) : (s.setArray r m).e = s.e := by
  cases r <;> rfl
@[simp] theorem setArray_h (r : Region) (m : Memory) : (s.setArray r m).h = s.h := by
  cases r <;> rfl
@[simp] theorem setArray_l (r : Region) (m : Memory) : (s.setArray r m).l = s.l := by
  cases r <;> rfl
@[simp] theorem setArray_f (r : Region) (m : Memory) : (s.setArray r m).f = s.f := by
  cases r <;> rfl
@[simp] theorem setArray_sp (r : Region) (m : Memory) : (s.setArray r m).sp = s.sp := by
  cases r <;> rfl
@[simp] theorem setArray_pc (r : Region) (m : Memory) : (s.setArray r m).pc = s.pc := by
  cases r <;> rfl
@[simp] theorem setArray_biosMapped (r : Region) (m : Memory) : (s.setArray r m).biosMapped = s.biosMapped := by
  cases r <;> rfl
@[simp] theorem setArray_run (r : Region) (m : Memory) : (s.setArray r m).run = s.run := by
  cases r <;> rfl
@[simp] theorem setArray_cycles (r : Region) (m : Memory) : (s.setArray r m).cycles = s.cycles := by
  cases r <;> rfl
@[simp] theorem setArray_config (r : Region) (m : Memory) : (s.setArray r m).config = s.config := by
  cases r <;> rfl
@[simp] theorem setArray_reg8 (r : Region) (m : Memory) (r' : Reg8) : (s.setArray r m).reg8 r' = s.reg8 r' := by
  cases r' <;> simp [State.reg8]
@[simp] theorem setArray_reg16 (r : Region) (m : Memory) (rr' : Reg16) : (s.setArray r m).reg16 rr' = s.reg16 rr' := by
  cases rr' <;> simp [State.reg16]
@[simp] theorem setArray_flag (r : Region) (m : Memory) (fl' : Flag) : (s.setArray r m).flag fl' = s.flag fl' := by
  simp [State.flag]
@[simp] theorem setArray_readF (r : Region) (m : Memory) : (s.setArray r m).readF = s.readF := by
  simp [State.readF]

/-! `disableBios` -/

@[simp] theorem disableBios_a : (disableBios s).a = s.a := rfl
@[simp] theorem disableBios_b : (disableBios s).b = s.b := rfl
@[simp] theorem disableBios_c : (disableBios s).c = s.c := rfl
@[simp] theorem disableBios_d : (disableBios s).d = s.d := rfl
@[simp] theorem disableBios_e : (disableBios s).e = s.e := rfl
@[simp] theorem disableBios_h : (disableBios s).h = s.h := rfl
@[simp] theorem disableBios_l : (disableBios s).l = s.l := rfl
@[simp] theorem disableBios_f : (disableBios s).f = s.f := rfl
@[simp] theorem disableBios_sp : (disableBios s).sp = s.sp := rfl
@[simp] theorem disableBios_pc : (disableBios s).pc = s.pc := rfl
@[simp] theorem disableBios_bios : (disableBios s).bios = s.bios := rfl
@[simp] theorem disableBios_rom : (disableBios s).rom = s.rom := rfl
@[simp] theorem disableBios_vram : (disableBios s).vram = s.vram := rfl
@[simp] theorem disableBios_eram : (disableBios s).eram = s.eram := rfl
@[simp] theorem disableBios_wram : (disableBios s).wram = s.wram := rfl
@[simp] theorem disableBios_oam : (disableBios s).oam = s.oam := rfl
@[simp] theorem disableBios_hram : (disableBios s).hram = s.hram := rfl
@[simp] theorem disableBios_run : (disableBios s).run = s.run := rfl
@[simp] theorem disableBios_cycles : (disableBios s).cycles = s.cycles := rfl
@[simp] theorem disableBios_config : (disableBios s).config = s.config := rfl
@[simp] theorem disableBios_reg8 (r' : Reg8) : (disableBios s).reg8 r' = s.reg8 r' := by
  cases r' <;> rfl
@[simp] theorem disableBios_reg16 (rr' : Reg16) : (disableBios s).reg16 rr' = s.reg16 rr' := by
  cases rr' <;> rfl
@[simp] theorem disableBios_flag (fl' : Flag) : (disableBios s).flag fl' = s.flag fl' := rfl
@[simp] theorem disableBios_readF : (disableBios s).readF = s.readF := rfl
@[simp] theorem disableBios_array (r' : Region) : (disableBios s).array r' = s.array r' := by
  cases r' <;> rfl

/-! `readTrigger` -/

@[simp] theorem readTrigger_a (addr : Word) : (readTrigger addr s).a = s.a := by
  unfold readTrigger; split <;> rfl
@[simp] theorem readTrigger_b (addr : Word) : (readTrigger addr s).b = s.b := by
  unfold readTrigger; split <;> rfl
@[simp] theorem readTrigger_c (addr : Word) : (readTrigger addr s).c = s.c := by
  unfold readTrigger; split <;> rfl
@[simp] theorem readTrigger_d (addr : Word) : (readTrigger addr s).d = s.d := by
  unfold readTrigger; split <;> rfl
@[simp] theorem readTrigger_e (addr : Word) : (readTrigger addr s).e = s.e := by
  unfold readTrigger; split <;> rfl
@[simp] theorem readTrigger_h (addr : Word) : (readTrigger addr s).h = s.h := by
  unfold readTrigger; split <;> rfl
@[simp] theorem readTrigger_l (addr : Word) : (readTrigger addr s).l = s.l := by
  unfold readTrigger; split <;> rfl
@[simp] theorem readTrigger_f (addr : Word) : (readTrigger addr s).f = s.f := by
  unfold readTrigger; split <;> rfl
@[simp] theorem readTrigger_sp (addr : Word) : (readTrigger addr s).sp = s.sp := by
  unfold readTrigger; split <;> rfl
@[simp] theorem readTrigger_pc (addr : Word) : (readTrigger addr s).pc = s.pc := by
  unfold readTrigger; split <;> rfl
@[simp] theorem readTrigger_bios (addr : Word) : (readTrigger addr s).bios = s.bios := by
  unfold readTrigger; split <;> rfl
@[simp] theorem readTrigger_rom (addr : Word) : (readTrigger addr s).rom = s.rom := by
  unfold readTrigger; split <;> rfl
@[simp] theorem readTrigger_vram (addr : Word) : (readTrigger addr s).vram = s.vram := by
  unfold readTrigger; split <;> rfl
@[simp] theorem readTrigger_eram (addr : Word) : (readTrigger addr s).eram = s.eram := by
  unfold readTrigger; split <;> rfl
@[simp] theorem readTrigger_wram (addr : Word) : (readTrigger addr s).wram = s.wram := by
  unfold readTrigger; split <;> rfl
@[simp] theorem readTrigger_oam (addr : Word) : (readTrigger addr s).oam = s.oam := by
  unfold readTrigger; split <;> rfl
@[simp] theorem readTrigger_hram (addr : Word) : (readTrigger addr s).hram = s.hram := by
  unfold readTrigger; split <;> rfl
@[simp] theorem readTrigger_run (addr : Word) : (readTrigger addr s).run = s.run := by
  unfold readTrigger; split <;> rfl
@[simp] theorem readTrigger_cycles (addr : Word) : (readTrigger addr s).cycles = s.cycles := by
  unfold readTrigger; split <;> rfl
@[simp] theorem readTrigger_config (addr : Word) : (readTrigger addr s).config = s.config := by
  unfold readTrigger; split <;> rfl
@[simp] theorem readTrigger_reg8 (addr : Word) (r' : Reg8) : (readTrigger addr s).reg8 r' = s.reg8 r' := by
  cases r' <;> simp [State.reg8]
@[simp] theorem readTrigger_reg16 (addr : Word) (rr' : Reg16) : (readTrigger addr s).reg16 rr' = s.reg16 rr' := by
  cases rr' <;> simp [State.reg16]
@[simp] theorem readTrigger_flag (addr : Word) (fl' : Flag) : (readTrigger addr s).flag fl' = s.flag fl' := by
  simp [State.flag]
@[simp] theorem readTrigger_readF (addr : Word) : (readTrigger addr s).readF = s.readF := by
  simp [State.readF]
@[simp] theorem readTrigger_array (addr : Word) (r' : Region) : (readTrigger addr s).array r' = s.array r' := by
  cases r' <;> simp [State.array]

/-! `pcTrigger` -/

@[simp] theorem pcTrigger_a : (pcTrigger s).a = s.a := by
  unfold pcTrigger; split <;> rfl
@[simp] theorem pcTrigger_b : (pcTrigger s).b = s.b := by
  unfold pcTrigger; split <;> rfl
@[simp] theorem pcTrigger_c : (pcTrigger s).c = s.c := by
  unfold pcTrigger; split <;> rfl
@[simp] theorem pcTrigger_d : (pcTrigger s).d = s.d := by
  unfold pcTrigger; split <;> rfl
@[simp] theorem pcTrigger_e : (pcTrigger s).e = s.e := by
  unfold pcTrigger; split <;> rfl
@[simp] theorem pcTrigger_h : (pcTrigger s).h = s.h := by
  unfold pcTrigger; split <;> rfl
@[simp] theorem pcTrigger_l : (pcTrigger s).l = s.l := by
  unfold pcTrigger; split <;> rfl
@[simp] theorem pcTrigger_f : (pcTrigger s).f = s.f := by
  unfold pcTrigger; split <;> rfl
@[simp] theorem pcTrigger_sp : (pcTrigger s).sp = s.sp := by
  unfold pcTrigger; split <;> rfl
@[simp] theorem pcTrigger_pc : (pcTrigger s).pc = s.pc := by
  unfold pcTrigger; split <;> rfl
@[simp] theorem pcTrigger_bios : (pcTrigger s).bios = s.bios := by
  unfold pcTrigger; split <;> rfl
@[simp] theorem pcTrigger_rom : (pcTrigger s).rom = s.rom := by
  unfold pcTrigger; split <;> rfl
@[simp] theorem pcTrigger_vram : (pcTrigger s).vram = s.vram := by
  unfold pcTrigger; split <;> rfl
@[simp] theorem pcTrigger_eram : (pcTrigger s).eram = s.eram := by
  unfold pcTrigger; split <;> rfl
@[simp] theorem pcTrigger_wram : (pcTrigger s).wram = s.wram := by
  unfold pcTrigger; split <;> rfl
@[simp] theorem pcTrigger_oam : (pcTrigger s).oam = s.oam := by
  unfold pcTrigger; split <;> rfl
@[simp] theorem pcTrigger_hram : (pcTrigger s).hram = s.hram := by
  unfold pcTrigger; split <;> rfl
@[simp] theorem pcTrigger_run : (pcTrigger s).run = s.run := by
  unfold pcTrigger; split <;> rfl
@[simp] theorem pcTrigger_cycles : (pcTrigger s).cycles = s.cycles := by
  unfold pcTrigger; split <;> rfl
@[simp] theorem pcTrigger_config : (pcTrigger s).config = s.config := by
  unfold pcTrigger; split <;> rfl
@[simp] theorem pcTrigger_reg8 (r' : Reg8) : (pcTrigger s).reg8 r' = s.reg8 r' := by
  cases r' <;> simp [State.reg8]
@[simp] theorem pcTrigger_reg16 (rr' : Reg16) : (pcTrigger s).reg16 rr' = s.reg16 rr' := by
  cases rr' <;> simp [State.reg16]
@[simp] theorem pcTrigger_flag (fl' : Flag) : (pcTrigger s).flag fl' = s.flag fl' := by
  simp [State.flag]
@[simp] theorem pcTrigger_readF : (pcTrigger s).readF = s.readF := by
  simp [State.readF]
@[simp] theorem pcTrigger_array (r' : Region) : (pcTrigger s).array r' = s.array r' := by
  cases r' <;> simp [State.array]

/-! `writeByte` -/

@[simp] theorem writeByte_a (addr : Word) (v : Byte) : (writeByte s addr v).a = s.a := by
  unfold writeByte; split <;> try split
  all_goals first | rfl | simp
@[simp] theorem writeByte_b (addr : Word) (v : Byte) : (writeByte s addr v).b = s.b := by
  unfold writeByte; split <;> try split
  all_goals first | rfl | simp
@[simp] theorem writeByte_c (addr : Word) (v : Byte) : (writeByte s addr v).c = s.c := by
  unfold writeByte; split <;> try split
  all_goals first | rfl | simp
@[simp] theorem writeByte_d (addr : Word) (v : Byte) : (writeByte s addr v).d = s.d := by
  unfold writeByte; split <;> try split
  all_goals first | rfl | simp
@[simp] theorem writeByte_e (addr : Word) (v : Byte) : (writeByte s addr v).e = s.e := by
  unfold writeByte; split <;> try split
  all_goals first | rfl | simp
@[simp] theorem writeByte_h (addr : Word) (v : Byte) : (writeByte s addr v).h = s.h := by
  unfold writeByte; split <;> try split
  all_goals first | rfl | simp
@[simp] theorem writeByte_l (addr : Word) (v : Byte) : (writeByte s addr v).l = s.l := by
  unfold writeByte; split <;> try split
  all_goals first | rfl | simp
@[simp] theorem writeByte_f (addr : Word) (v : Byte) : (writeByte s addr v).f = s.f := by
  unfold writeByte; split <;> try split
  all_goals first | rfl | simp
@[simp] theorem writeByte_sp (addr : Word) (v : Byte) : (writeByte s addr v).sp = s.sp := by
  unfold writeByte; split <;> try split
  all_goals first | rfl | simp
@[simp] theorem writeByte_pc (addr : Word) (v : Byte) : (writeByte s addr v).pc = s.pc := by
  unfold writeByte; split <;> try split
  all_goals first | rfl | simp
@[simp] theorem writeByte_biosMapped (addr : Word) (v : Byte) : (writeByte s addr v).biosMapped = s.biosMapped := by
  unfold writeByte; split <;> try split
  all_goals first | rfl | simp
@[simp] theorem writeByte_run (addr : Word) (v : Byte) : (writeByte s addr v).run = s.run := by
  unfold writeByte; split <;> try split
  all_goals first | rfl | simp
@[simp] theorem writeByte_cycles (addr : Word) (v : Byte) : (writeByte s addr v).cycles = s.cycles := by
  unfold writeByte; split <;> try split
  all_goals first | rfl | simp
@[simp] theorem writeByte_config (addr : Word) (v : Byte) : (writeByte s addr v).config = s.config := by
  unfold writeByte; split <;> try split
  all_goals first | rfl | simp
@[simp] theorem writeByte_reg8 (addr : Word) (v : Byte) (r' : Reg8) : (writeByte s addr v).reg8 r' = s.reg8 r' := by
  cases r' <;> simp [State.reg8]
@[simp] theorem writeByte_reg16 (addr : Word) (v : Byte) (rr' : Reg16) : (writeByte s addr v).reg16 rr' = s.reg16 rr' := by
  cases rr' <;> simp [State.reg16]
@[simp] theorem writeByte_flag (addr : Word) (v : Byte) (fl' : Flag) : (writeByte s addr v).flag fl' = s.flag fl' := by
  simp [State.flag]
@[simp] theorem writeByte_readF (addr : Word) (v : Byte) : (writeByte s addr v).readF = s.readF := by
  simp [State.readF]

/-! `retire` -/

@[simp] theorem retire_a (t : Nat) : (retire t s).a = s.a := by
  unfold retire; split <;> rfl
@[simp] theorem retire_b (t : Nat) : (retire t s).b = s.b := by
  unfold retire; split <;> rfl
@[simp] theorem retire_c (t : Nat) : (retire t s).c = s.c := by
  unfold retire; split <;> rfl
@[simp] theorem retire_d (t : Nat) : (retire t s).d = s.d := by
  unfold retire; split <;> rfl
@[simp] theorem retire_e (t : Nat) : (retire t s).e = s.e := by
  unfold retire; split <;> rfl
@[simp] theorem retire_h (t : Nat) : (retire t s).h = s.h := by
  unfold retire; split <;> rfl
@[simp] theorem retire_l (t : Nat) : (retire t s).l = s.l := by
  unfold retire; split <;> rfl
@[simp] theorem retire_f (t : Nat) : (retire t s).f = s.f := by
  unfold retire; split <;> rfl
@[simp] theorem retire_sp (t : Nat) : (retire t s).sp = s.sp := by
  unfold retire; split <;> rfl
@[simp] theorem retire_pc (t : Nat) : (retire t s).pc = s.pc := by
  unfold retire; split <;> rfl
@[simp] theorem retire_bios (t : Nat) : (retire t s).bios = s.bios := by
  unfold retire; split <;> rfl
@[simp] theorem retire_rom (t : Nat) : (retire t s).rom = s.rom := by
  unfold retire; split <;> rfl
@[simp] theorem retire_vram (t : Nat) : (retire t s).vram = s.vram := by
  unfold retire; split <;> rfl
@[simp] theorem retire_eram (t : Nat) : (retire t s).eram = s.eram := by
  unfold retire; split <;> rfl
@[simp] theorem retire_wram (t : Nat) : (retire t s).wram = s.wram := by
  unfold retire; split <;> rfl
@[simp] theorem retire_oam (t : Nat) : (retire t s).oam = s.oam := by
  unfold retire; split <;> rfl
@[simp] theorem retire_hram (t : Nat) : (retire t s).hram = s.hram := by
  unfold retire; split <;> rfl
@[simp] theorem retire_biosMapped (t : Nat) : (retire t s).biosMapped = s.biosMapped := by
  unfold retire; split <;> rfl
@[simp] theorem retire_config (t : Nat) : (retire t s).config = s.config := by
  unfold retire; split <;> rfl
@[simp] theorem retire_reg8 (t : Nat) (r' : Reg8) : (retire t s).reg8 r' = s.reg8 r' := by
  cases r' <;> simp [State.reg8]
@[simp] theorem retire_reg16 (t : Nat) (rr' : Reg16) : (retire t s).reg16 rr' = s.reg16 rr' := by
  cases rr' <;> simp [State.reg16]
@[simp] theorem retire_flag (t : Nat) (fl' : Flag) : (retire t s).flag fl' = s.flag fl' := by
  simp [State.flag]
@[simp] theorem retire_readF (t : Nat) : (retire t s).readF = s.readF := by
  simp [State.readF]
@[simp] theorem retire_array (t : Nat) (r' : Region) : (retire t s).array r' = s.array r' := by
  cases r' <;> simp [State.array]

/-! `raiseFault` -/

@[simp] theorem raiseFault_a (e : Fault) : (raiseFault e s).a = s.a := rfl
@[simp] theorem raiseFault_b (e : Fault) : (raiseFault e s).b = s.b := rfl
@[simp] theorem raiseFault_c (e : Fault) : (raiseFault e s).c = s.c := rfl
@[simp] theorem raiseFault_d (e : Fault) : (raiseFault e s).d = s.d := rfl
@[simp] theorem raiseFault_e (e : Fault) : (raiseFault e s).e = s.e := rfl
@[simp] theorem raiseFault_h (e : Fault) : (raiseFault e s).h = s.h := rfl
@[simp] theorem raiseFault_l (e : Fault) : (raiseFault e s).l = s.l := rfl
@[simp] theorem raiseFault_f (e : Fault) : (raiseFault e s).f = s.f := rfl
@[simp] theorem raiseFault_sp (e : Fault) : (raiseFault e s).sp = s.sp := rfl
@[simp] theorem raiseFault_pc (e : Fault) : (raiseFault e s).pc = s.pc := rfl
@[simp] theorem raiseFault_bios (e : Fault) : (raiseFault e s).bios = s.bios := rfl
@[simp] theorem raiseFault_rom (e : Fault) : (raiseFault e s).rom = s.rom := rfl
@[simp] theorem raiseFault_vram (e : Fault) : (raiseFault e s).vram = s.vram := rfl
@[simp] theorem raiseFault_eram (e : Fault) : (raiseFault e s).eram = s.eram := rfl
@[simp] theorem raiseFault_wram (e : Fault) : (raiseFault e s).wram = s.wram := rfl
@[simp] theorem raiseFault_oam (e : Fault) : (raiseFault e s).oam = s.oam := rfl
@[simp] theorem raiseFault_hram (e : Fault) : (raiseFault e s).hram = s.hram := rfl
@[simp] theorem raiseFault_biosMapped (e : Fault) : (raiseFault e s).biosMapped = s.biosMapped := rfl
@[simp] theorem raiseFault_cycles (e : Fault) : (raiseFault e s).cycles = s.cycles := rfl
@[simp] theorem raiseFault_config (e : Fault) : (raiseFault e s).config = s.config := rfl
@[simp] theorem raiseFault_reg8 (e : Fault) (r' : Reg8) : (raiseFault e s).reg8 r' = s.reg8 r' := by
  cases r' <;> rfl
@[simp] theorem raiseFault_reg16 (e : Fault) (rr' : Reg16) : (raiseFault e s).reg16 rr' = s.reg16 rr' := by
  cases rr' <;> rfl
@[simp] theorem raiseFault_flag (e : Fault) (fl' : Flag) : (raiseFault e s).flag fl' = s.flag fl' := rfl
@[simp] theorem raiseFault_readF (e : Fault) : (raiseFault e s).readF = s.readF := rfl
@[simp] theorem raiseFault_array (e : Fault) (r' : Region) : (raiseFault e s).array r' = s.array r' := by
  cases r' <;> rfl

/-! What an update sets. -/

@[simp] theorem setReg8_reg8 (r r' : Reg8) (v : Byte) :
    (s.setReg8 r v).reg8 r' = if r' = r then v else s.reg8 r' := by
  cases r <;> cases r' <;> rfl

theorem setReg8_reg8_self (r : Reg8) (v : Byte) : (s.setReg8 r v).reg8 r = v := by simp

@[simp] theorem setArray_array (r r' : Region) (m : Memory) :
    (s.setArray r m).array r' = if r' = r then m else s.array r' := by
  cases r <;> cases r' <;> rfl

@[simp] theorem writeF_f (v : Byte) : (s.writeF v).f = v &&& 0xF0#8 := rfl

@[simp] theorem setPc_pc (v : Word) : (s.setPc v).pc = v := rfl

@[simp] theorem disableBios_biosMapped : (disableBios s).biosMapped = false := rfl

@[simp] theorem retire_cycles (t : Nat) : (retire t s).cycles = s.cycles + t := by
  unfold retire; split <;> rfl

theorem retire_run (t : Nat) : (retire t s).run = if t = 0 then .halted .stop else s.run := by
  unfold retire; split <;> rfl

@[simp] theorem raiseFault_run (e : Fault) : (raiseFault e s).run = .halted (.fault e) := rfl

/-! A byte's reads depend on the arrays and the overlay alone. -/

theorem peek_congr (s t : State) (hm : SameMemory s t) (hb : t.biosMapped = s.biosMapped) (addr : Word) :
    t.peek addr = s.peek addr := by
  unfold State.peek
  rw [hb]
  split <;> simp [hm _]

end Sys2Proof.Machine
end

