-- ==== Sys2Proof/Laws/Memory.lean ====
section
/-! SUPPORT. The laws of one backing array: what a read gives after a write, that every operation keeps the canonical
form, and that arrays in canonical form with the same bytes are the same data. -/

namespace Sys2Proof.Machine

theorem memoryRises_cons (size lo i : Nat) (v : Byte) (m : Memory) :
    memoryRises size lo ((i, v) :: m) = true ↔
      lo ≤ i ∧ i < size ∧ v ≠ 0 ∧ memoryRises size (i + 1) m = true := by
  simp [memoryRises, and_assoc]

theorem memoryRises_mono {size lo lo' : Nat} {m : Memory} (hlo : lo' ≤ lo) (h : memoryRises size lo m = true) :
    memoryRises size lo' m = true := by
  cases m with
  | nil => rfl
  | cons c m =>
    obtain ⟨i, v⟩ := c
    rw [memoryRises_cons] at h ⊢
    exact ⟨hlo.trans h.1, h.2⟩

theorem read_below {size lo i : Nat} {m : Memory} (h : memoryRises size lo m = true) (hi : i < lo) :
    Memory.read m i = 0 := by
  induction m generalizing lo with
  | nil => rfl
  | cons c m ih =>
    obtain ⟨j, v⟩ := c
    rw [memoryRises_cons] at h
    rw [Memory.read, if_neg (by omega)]
    exact ih h.2.2.2 (by omega)

theorem read_outside {size lo i : Nat} {m : Memory} (h : memoryRises size lo m = true) (hi : size ≤ i) :
    Memory.read m i = 0 := by
  induction m generalizing lo with
  | nil => rfl
  | cons c m ih =>
    obtain ⟨j, v⟩ := c
    rw [memoryRises_cons] at h
    rw [Memory.read, if_neg (by omega)]
    exact ih h.2.2.2

theorem read_cons_same {size i : Nat} (v : Byte) {m : Memory} (h : memoryRises size (i + 1) m = true) :
    Memory.read (Memory.cons i v m) i = v := by
  unfold Memory.cons
  split
  · rw [read_below h (by omega)]; simp_all
  · simp [Memory.read]

theorem read_cons_other {i j : Nat} (v : Byte) (m : Memory) (hj : j ≠ i) :
    Memory.read (Memory.cons i v m) j = Memory.read m j := by
  unfold Memory.cons
  split
  · rfl
  · rw [Memory.read, if_neg (Ne.symm hj)]

theorem cons_rises {size lo i : Nat} (v : Byte) {m : Memory} (hlo : lo ≤ i) (hi : i < size)
    (h : memoryRises size (i + 1) m = true) : memoryRises size lo (Memory.cons i v m) = true := by
  unfold Memory.cons
  split
  · exact memoryRises_mono (by omega) h
  · rename_i hv
    exact (memoryRises_cons ..).2 ⟨hlo, hi, hv, h⟩

/-- A read at the written index gives the written byte. -/
theorem read_write_same {size lo i : Nat} (v : Byte) {m : Memory} (h : memoryRises size lo m = true) :
    Memory.read (Memory.write m i v) i = v := by
  induction m generalizing lo with
  | nil => exact read_cons_same (size := size) v rfl
  | cons c m ih =>
    obtain ⟨j, w⟩ := c
    rw [memoryRises_cons] at h
    unfold Memory.write
    split
    · exact read_cons_same v ((memoryRises_cons ..).2 ⟨by omega, h.2⟩)
    · split
      · rename_i hij
        subst hij
        exact read_cons_same v h.2.2.2
      · rw [Memory.read, if_neg (by omega)]
        exact ih h.2.2.2

/-- A read elsewhere gives what it gave before; no canonical form is needed. -/
theorem read_write_other {i j : Nat} (v : Byte) (m : Memory) (hj : j ≠ i) :
    Memory.read (Memory.write m i v) j = Memory.read m j := by
  induction m with
  | nil => exact read_cons_other v [] hj
  | cons c m ih =>
    obtain ⟨k, w⟩ := c
    unfold Memory.write
    split
    · exact read_cons_other v _ hj
    · split
      · rename_i hik
        rw [read_cons_other v m hj, Memory.read, if_neg (by omega)]
      · simp only [Memory.read, ih]

theorem write_rises {size lo i : Nat} (v : Byte) {m : Memory} (hlo : lo ≤ i) (hi : i < size)
    (h : memoryRises size lo m = true) : memoryRises size lo (Memory.write m i v) = true := by
  induction m generalizing lo with
  | nil => exact cons_rises v hlo hi rfl
  | cons c m ih =>
    obtain ⟨j, w⟩ := c
    rw [memoryRises_cons] at h
    unfold Memory.write
    split
    · exact cons_rises v hlo hi ((memoryRises_cons ..).2 ⟨by omega, h.2⟩)
    · split
      · rename_i hij
        subst hij
        exact cons_rises v hlo hi h.2.2.2
      · exact (memoryRises_cons ..).2 ⟨h.1, h.2.1, h.2.2.1, ih (by omega) h.2.2.2⟩

/-- A write inside the array keeps its canonical form. -/
theorem write_wf {size i : Nat} (v : Byte) {m : Memory} (hi : i < size) (h : Memory.wf size m = true) :
    Memory.wf size (Memory.write m i v) = true := write_rises v (Nat.zero_le i) hi h

theorem read_write_wf {size i : Nat} (v : Byte) {m : Memory} (h : Memory.wf size m = true) :
    Memory.read (Memory.write m i v) i = v := read_write_same v h

theorem ofImageFrom_rises {size i : Nat} (image : List Byte) (h : i + image.length ≤ size) :
    memoryRises size i (Memory.ofImageFrom i image) = true := by
  induction image generalizing i with
  | nil => rfl
  | cons v image ih =>
    simp only [List.length_cons] at h
    exact cons_rises v (Nat.le_refl i) (by omega) (ih (by omega))

/-- An image's array is in canonical form. -/
theorem ofImage_wf (size : Nat) (image : List Byte) : Memory.wf size (Memory.ofImage size image) = true :=
  ofImageFrom_rises _ (by simp)

theorem read_ofImageFrom {i k : Nat} (image : List Byte) (h : i ≤ k) :
    Memory.read (Memory.ofImageFrom i image) k = image.getD (k - i) 0 := by
  induction image generalizing i with
  | nil => simp [Memory.ofImageFrom, Memory.read]
  | cons v image ih =>
    rw [Memory.ofImageFrom]
    rcases Nat.eq_or_lt_of_le h with rfl | hlt
    · simpa using read_cons_same (size := i + 1 + image.length) v (ofImageFrom_rises image (Nat.le_refl _))
    · rw [read_cons_other v _ (by omega), ih hlt, show k - i = (k - (i + 1)) + 1 by omega, List.getD_cons_succ]

/-- An image's array reads as the image, and as 0x00 past its end. -/
theorem read_ofImage (size k : Nat) (image : List Byte) :
    Memory.read (Memory.ofImage size image) k = (image.take size).getD k 0 :=
  read_ofImageFrom _ (Nat.zero_le k)

theorem read_head_ne {i : Nat} {v : Byte} {m : Memory} (hv : v ≠ 0) : Memory.read ((i, v) :: m) i ≠ 0 := by
  rwa [Memory.read, if_pos rfl]

/-- Arrays in canonical form with the same bytes are the same data. -/
theorem rises_ext {size lo : Nat} {m m' : Memory} (h : memoryRises size lo m = true)
    (h' : memoryRises size lo m' = true) (hr : ∀ i, Memory.read m i = Memory.read m' i) : m = m' := by
  induction m generalizing lo m' with
  | nil =>
    cases m' with
    | nil => rfl
    | cons c m' =>
      obtain ⟨j, w⟩ := c
      rw [memoryRises_cons] at h'
      exact absurd (hr j).symm (read_head_ne h'.2.2.1)
  | cons c m ih =>
    obtain ⟨i, v⟩ := c
    rw [memoryRises_cons] at h
    cases m' with
    | nil => exact absurd (hr i) (read_head_ne h.2.2.1)
    | cons c' m' =>
      obtain ⟨j, w⟩ := c'
      rw [memoryRises_cons] at h'
      have hij : i = j := by
        rcases Nat.lt_trichotomy i j with hlt | heq | hgt
        · have := hr i
          rw [read_below ((memoryRises_cons ..).2 ⟨Nat.le_refl j, h'.2⟩) hlt] at this
          exact absurd this (read_head_ne h.2.2.1)
        · exact heq
        · have := hr j
          rw [read_below ((memoryRises_cons ..).2 ⟨Nat.le_refl i, h.2⟩) hgt] at this
          exact absurd this.symm (read_head_ne h'.2.2.1)
      subst hij
      have hvw : v = w := by simpa [Memory.read] using hr i
      have htail : m = m' := ih h.2.2.2 h'.2.2.2 fun k => by
        rcases Nat.lt_or_ge k (i + 1) with hk | hk
        · rw [read_below h.2.2.2 hk, read_below h'.2.2.2 hk]
        · have := hr k
          rwa [Memory.read, Memory.read, if_neg (by omega), if_neg (by omega)] at this
      rw [hvw, htail]

theorem wf_ext {size : Nat} {m m' : Memory} (h : Memory.wf size m = true) (h' : Memory.wf size m' = true)
    (hr : ∀ i, Memory.read m i = Memory.read m' i) : m = m' := rises_ext h h' hr

end Sys2Proof.Machine
end

