-- ==== Sys2Proof/Laws/Ops.lean ====
section
/-! SUPPORT. One lemma for each shared operation, which says everything it can do, and what every handler keeps, said
once for all instructions; then what a step can do. -/

namespace Sys2Proof.Machine

/-! Address decoding. -/

theorem and_1FFF_toNat (a : Word) : (a &&& 0x1FFF#16).toNat = a.toNat % 8192 := by
  rw [BitVec.toNat_and]; exact Nat.and_two_pow_sub_one_eq_mod a.toNat 13

theorem and_00FF_toNat (a : Word) : (a &&& 0x00FF#16).toNat = a.toNat % 256 := by
  rw [BitVec.toNat_and]; exact Nat.and_two_pow_sub_one_eq_mod a.toNat 8

theorem and_007F_toNat (a : Word) : (a &&& 0x007F#16).toNat = a.toNat % 128 := by
  rw [BitVec.toNat_and]; exact Nat.and_two_pow_sub_one_eq_mod a.toNat 7

/-- Address decoding with the masks as remainders. -/
theorem decodeAddr_arith (mapped : Bool) (a : Word) :
    decodeAddr mapped a =
      if a.toNat < 0x0100 then (if mapped then .cell .bios a.toNat else .cell .rom a.toNat)
      else if a.toNat < 0x8000 then .cell .rom a.toNat
      else if a.toNat < 0xA000 then .cell .vram (a.toNat % 8192)
      else if a.toNat < 0xC000 then .cell .eram (a.toNat % 8192)
      else if a.toNat < 0xFE00 then .cell .wram (a.toNat % 8192)
      else if a.toNat < 0xFEA0 then .cell .oam (a.toNat % 256)
      else if a.toNat < 0xFF00 then .oamTail
      else if a.toNat < 0xFF80 then .io
      else .cell .hram (a.toNat % 128) := by
  unfold decodeAddr
  rw [and_1FFF_toNat, and_00FF_toNat, and_007F_toNat]

/-- An index that an address decodes to lies inside its array. -/
theorem decodeAddr_index_lt {mapped : Bool} {a : Word} {r : Region} {i : Nat}
    (h : decodeAddr mapped a = .cell r i) : i < regionSize r := by
  rw [decodeAddr_arith] at h
  split_ifs at h <;> cases h <;> simp only [regionSize] <;> omega

/-- Only the lowest 256 addresses depend on the overlay. -/
theorem decodeAddr_high (mapped mapped' : Bool) {a : Word} (h : 0x0100 ≤ a.toNat) :
    decodeAddr mapped a = decodeAddr mapped' a := by
  have h' : ¬ a.toNat < 0x0100 := by omega
  simp only [decodeAddr, if_neg h']

/-- An index of OAM that an address decodes to is below 0xA0. -/
theorem decodeAddr_oam_lt {mapped : Bool} {a : Word} {i : Nat} (h : decodeAddr mapped a = .cell .oam i) :
    i < 0xA0 := by
  rw [decodeAddr_arith] at h
  split_ifs at h
  all_goals (cases h; try omega)

/-! Writes. -/

/-- A byte write replaces one byte of one writable array, or changes nothing. -/
theorem writeByte_cases (s : State) (addr : Word) (v : Byte) :
    (∃ r i, decodeAddr s.biosMapped addr = .cell r i ∧ regionWritable r = true ∧
      writeByte s addr v = s.setArray r (Memory.write (s.array r) i v)) ∨
    ((∀ r i, decodeAddr s.biosMapped addr = .cell r i → regionWritable r = false) ∧ writeByte s addr v = s) := by
  unfold writeByte
  split
  · rename_i r i h
    split
    · exact .inl ⟨r, i, h, ‹_›, rfl⟩
    · rename_i hw
      refine .inr ⟨fun r' i' h' => ?_, rfl⟩
      cases h.symm.trans h'
      simpa using hw
  · rename_i h
    exact .inr ⟨fun r i h' => (nomatch h.symm.trans h'), rfl⟩
  · rename_i h
    exact .inr ⟨fun r i h' => (nomatch h.symm.trans h'), rfl⟩

/-- A byte write keeps every array's canonical form. -/
theorem writeByte_memoryWf {s : State} (addr : Word) (v : Byte) (h : s.memoryWf) :
    (writeByte s addr v).memoryWf := by
  rcases writeByte_cases s addr v with ⟨r, i, hd, -, he⟩ | ⟨-, he⟩
  · rw [he]
    intro r'
    rw [setArray_array]
    split
    · rename_i hr
      subst hr
      exact write_wf v (decodeAddr_index_lt hd) (h r')
    · exact h r'
  · rw [he]; exact h

/-- A byte write leaves the arrays that ignore writes as they are. -/
theorem writeByte_readOnly (s : State) (addr : Word) (v : Byte) {r : Region} (hr : regionWritable r = false) :
    (writeByte s addr v).array r = s.array r := by
  rcases writeByte_cases s addr v with ⟨r', i, -, hw, he⟩ | ⟨-, he⟩
  · rw [he, setArray_array, if_neg]
    rintro rfl
    simp [hw] at hr
  · rw [he]

/-- A byte write leaves OAM's bytes past the addressable ones as they are. -/
theorem writeByte_oamTail (s : State) (addr : Word) (v : Byte) {k : Nat} (hk : 0xA0 ≤ k) :
    Memory.read (writeByte s addr v).oam k = Memory.read s.oam k := by
  change Memory.read ((writeByte s addr v).array .oam) k = Memory.read (s.array .oam) k
  rcases writeByte_cases s addr v with ⟨r, i, hd, -, he⟩ | ⟨-, he⟩
  · rw [he, setArray_array]
    split
    · rename_i hr
      subst hr
      have := decodeAddr_oam_lt hd
      exact read_write_other v _ (by omega)
    · rfl
  · rw [he]

/-- A view of an array through a byte that the host places keeps the canonical form as well. -/
theorem pokeByte_memoryWf {s : State} (addr : Word) (v : Byte) (h : s.memoryWf) : (pokeByte s addr v).memoryWf := by
  unfold pokeByte
  split
  · rename_i r i hd
    intro r'
    rw [setArray_array]
    split
    · rename_i hr
      subst hr
      exact write_wf v (decodeAddr_index_lt hd) (h r')
    · exact h r'
  · exact h
  · exact h

/-- The memory after reset is in canonical form. -/
theorem reset_memoryWf : State.reset.memoryWf := fun r => by cases r <;> rfl

/-! Reads. -/

/-- A read leaves everything but the overlay flag as it is, and can only end the overlay. -/
theorem readTrigger_biosMapped (addr : Word) (s : State) :
    (readTrigger addr s).biosMapped =
      (s.biosMapped && !(s.config.overlayTrigger == .readAt0100 && addr == 0x0100#16)) := by
  unfold readTrigger
  split
  · rename_i h
    simp [h.1, h.2]
  · rename_i h
    rw [not_and_or] at h
    rcases h with h | h <;> simp [h]

theorem pcTrigger_biosMapped (s : State) :
    (pcTrigger s).biosMapped =
      (s.biosMapped && !(s.config.overlayTrigger == .pcReaches0100 && s.pc == 0x0100#16)) := by
  unfold pcTrigger
  split
  · rename_i h
    simp [h.1, h.2]
  · rename_i h
    rw [not_and_or] at h
    rcases h with h | h <;> simp [h]

/-! F. -/

theorem writeF_flagsWf (s : State) (v : Byte) : (s.writeF v).flagsWf := by
  simp only [State.flagsWf, writeF_f]
  rw [BitVec.and_assoc]
  simp

theorem setZNH_flagsWf (s : State) (z n h : Bool) : (s.setZNH z n h).flagsWf := writeF_flagsWf _ _

theorem setNHC_flagsWf (s : State) (n h c : Bool) : (s.setNHC n h c).flagsWf := writeF_flagsWf _ _

theorem setZNHC_flagsWf (s : State) (z n h c : Bool) : (s.setZNHC z n h c).flagsWf := writeF_flagsWf _ _

/-- `set` makes the named flag what it is told. -/
theorem setFlag_flag_self (s : State) (fl : Flag) (on : Bool) : (s.setFlag fl on).flag fl = on := by
  cases fl <;> cases on <;> simp [State.setFlag, State.flag, State.writeF, flagMask, flagBit]

/-- `set` leaves the other flags. -/
theorem setFlag_flag_other (s : State) {fl fl' : Flag} (on : Bool) (h : fl' ≠ fl) :
    (s.setFlag fl on).flag fl' = s.flag fl' := by
  cases fl <;> cases fl' <;> first | exact absurd rfl h | skip
  all_goals cases on <;> simp [State.setFlag, State.flag, State.writeF, flagMask, flagBit]

@[simp] theorem setFlag_flag (s : State) (fl fl' : Flag) (on : Bool) :
    (s.setFlag fl on).flag fl' = if fl' = fl then on else s.flag fl' := by
  split
  · rename_i h
    rw [h, setFlag_flag_self]
  · exact setFlag_flag_other s on ‹_›

theorem setZNH_flag (s : State) (z n h : Bool) (fl : Flag) :
    (s.setZNH z n h).flag fl = match fl with | .z => z | .n => n | .h => h | .c => s.flag .c := by
  cases fl <;> simp [State.setZNH]

theorem setNHC_flag (s : State) (n h c : Bool) (fl : Flag) :
    (s.setNHC n h c).flag fl = match fl with | .z => s.flag .z | .n => n | .h => h | .c => c := by
  cases fl <;> simp [State.setNHC]

theorem setZNHC_flag (s : State) (z n h c : Bool) (fl : Flag) :
    (s.setZNHC z n h c).flag fl = match fl with | .z => z | .n => n | .h => h | .c => c := by
  cases fl <;> simp [State.setZNHC, State.setNHC]

/-! Pairs. -/

theorem concat_toNat (h l : Byte) : (concat h l).toNat = h.toNat * 256 + l.toNat := by
  have := Nat.two_pow_add_eq_or_of_lt l.isLt h.toNat
  unfold concat
  rw [BitVec.toNat_append, Nat.shiftLeft_eq, Nat.mul_comm h.toNat, ← this, Nat.mul_comm]

theorem hi8_toNat (v : Word) : (hi8 v).toNat = v.toNat / 256 := by
  have := v.isLt
  simp only [hi8, BitVec.extractLsb'_toNat, Nat.shiftRight_eq_div_pow]
  omega

theorem lo8_toNat (v : Word) : (lo8 v).toNat = v.toNat % 256 := by
  simp [lo8, BitVec.extractLsb'_toNat]

@[simp] theorem hi8_concat (h l : Byte) : hi8 (concat h l) = h := by
  apply BitVec.eq_of_toNat_eq
  have := l.isLt
  rw [hi8_toNat, concat_toNat]
  omega

@[simp] theorem lo8_concat (h l : Byte) : lo8 (concat h l) = l := by
  apply BitVec.eq_of_toNat_eq
  have := l.isLt
  rw [lo8_toNat, concat_toNat]
  omega

@[simp] theorem concat_hi8_lo8 (v : Word) : concat (hi8 v) (lo8 v) = v := by
  apply BitVec.eq_of_toNat_eq
  rw [concat_toNat, hi8_toNat, lo8_toNat]
  omega

@[simp] theorem setReg16_reg16_self (s : State) (rr : Reg16) (v : Word) : (s.setReg16 rr v).reg16 rr = v := by
  cases rr <;> simp [State.setReg16, State.reg16]

theorem setReg16_reg16_other (s : State) {rr rr' : Reg16} (v : Word) (h : rr' ≠ rr) :
    (s.setReg16 rr v).reg16 rr' = s.reg16 rr' := by
  cases rr <;> cases rr' <;> first | exact absurd rfl h | rfl

/-! What every handler keeps. -/

/-- Between the state a handler is given and the state it leaves, before `retire`. -/
structure HandlerKeeps (s t : State) : Prop where
  pc : t.pc = s.pc
  run : t.run = s.run
  cycles : t.cycles = s.cycles
  config : t.config = s.config
  bios : t.bios = s.bios
  rom : t.rom = s.rom
  oamTail : ∀ k, 0xA0 ≤ k → Memory.read t.oam k = Memory.read s.oam k
  overlay : t.biosMapped = true → s.biosMapped = true
  memoryWf : s.memoryWf → t.memoryWf
  flagsWf : s.flagsWf → t.flagsWf

theorem HandlerKeeps.refl (s : State) : HandlerKeeps s s :=
  ⟨rfl, rfl, rfl, rfl, rfl, rfl, fun _ _ => rfl, id, id, id⟩

theorem HandlerKeeps.trans {s t u : State} (h : HandlerKeeps s t) (k : HandlerKeeps t u) : HandlerKeeps s u :=
  ⟨k.pc.trans h.pc, k.run.trans h.run, k.cycles.trans h.cycles, k.config.trans h.config, k.bios.trans h.bios,
    k.rom.trans h.rom, fun i hi => (k.oamTail i hi).trans (h.oamTail i hi), h.overlay ∘ k.overlay,
    k.memoryWf ∘ h.memoryWf, k.flagsWf ∘ h.flagsWf⟩

theorem keeps_of_array {s t : State} (ha : ∀ r, t.array r = s.array r) : s.memoryWf → t.memoryWf :=
  fun h r => (ha r).symm ▸ h r

theorem setReg8_keeps (s : State) (r : Reg8) (v : Byte) : HandlerKeeps s (s.setReg8 r v) :=
  ⟨by simp, by simp, by simp, by simp, by simp, by simp, by simp, by simp, keeps_of_array (by simp),
    by simp [State.flagsWf]⟩

theorem setReg16_keeps (s : State) (rr : Reg16) (v : Word) : HandlerKeeps s (s.setReg16 rr v) :=
  ⟨by simp, by simp, by simp, by simp, by simp, by simp, by simp, by simp, keeps_of_array (by simp),
    by simp [State.flagsWf]⟩

theorem setZNH_keeps (s : State) (z n h : Bool) : HandlerKeeps s (s.setZNH z n h) :=
  ⟨rfl, rfl, rfl, rfl, rfl, rfl, fun _ _ => rfl, id, keeps_of_array (by simp), fun _ => setZNH_flagsWf ..⟩

theorem setNHC_keeps (s : State) (n h c : Bool) : HandlerKeeps s (s.setNHC n h c) :=
  ⟨rfl, rfl, rfl, rfl, rfl, rfl, fun _ _ => rfl, id, keeps_of_array (by simp), fun _ => setNHC_flagsWf ..⟩

theorem setZNHC_keeps (s : State) (z n h c : Bool) : HandlerKeeps s (s.setZNHC z n h c) :=
  ⟨rfl, rfl, rfl, rfl, rfl, rfl, fun _ _ => rfl, id, keeps_of_array (by simp), fun _ => setZNHC_flagsWf ..⟩

theorem writeByte_keeps (s : State) (addr : Word) (v : Byte) : HandlerKeeps s (writeByte s addr v) :=
  ⟨by simp, by simp, by simp, by simp, writeByte_readOnly s addr v (r := .bios) rfl,
    writeByte_readOnly s addr v (r := .rom) rfl, fun _ hk => writeByte_oamTail s addr v hk, by simp,
    writeByte_memoryWf addr v, by simp [State.flagsWf]⟩

theorem readTrigger_keeps (s : State) (addr : Word) : HandlerKeeps s (readTrigger addr s) :=
  ⟨by simp, by simp, by simp, by simp, by simp, by simp, by simp, by simp +contextual [readTrigger_biosMapped],
    keeps_of_array (by simp), by simp [State.flagsWf]⟩

theorem incReg8_keeps (r : Reg8) (s : State) : HandlerKeeps s (incReg8 r s) :=
  (setReg8_keeps ..).trans (setZNH_keeps ..)

theorem decReg8_keeps (r : Reg8) (s : State) : HandlerKeeps s (decReg8 r s) :=
  (setReg8_keeps ..).trans (setZNH_keeps ..)

theorem incMem_keeps (s : State) : HandlerKeeps s (incMem s) :=
  ((readTrigger_keeps ..).trans (writeByte_keeps ..)).trans (setZNH_keeps ..)

theorem decMem_keeps (s : State) : HandlerKeeps s (decMem s) :=
  ((readTrigger_keeps ..).trans (writeByte_keeps ..)).trans (setZNH_keeps ..)

theorem addHl_keeps (rr : Reg16) (s : State) : HandlerKeeps s (addHl rr s) :=
  (setReg16_keeps ..).trans (setNHC_keeps ..)

theorem rotateLeftA_keeps (s : State) : HandlerKeeps s (rotateLeftA s) :=
  (setReg8_keeps ..).trans (setZNHC_keeps ..)

theorem rotateRightA_keeps (s : State) : HandlerKeeps s (rotateRightA s) :=
  (setReg8_keeps ..).trans (setZNHC_keeps ..)

theorem loadAIndirect_keeps (rr : Reg16) (s : State) : HandlerKeeps s (loadAIndirect rr s) :=
  (readTrigger_keeps s (s.reg16 rr)).trans (setReg8_keeps (readTrigger (s.reg16 rr) s) .a (s.peek (s.reg16 rr)))

/-- Every instruction's meaning is a handler that keeps what `HandlerKeeps` says, ended by `retire` with the
instruction's own count. -/
theorem exec_cases (i : Instr) (s : State) :
    ∃ t, HandlerKeeps s t ∧ exec i s = .next (retire (instrCycles s.config i) t) := by
  cases i
  case nop =>
    refine ⟨_, ?_, rfl⟩
    exact .refl s
  case stop =>
    refine ⟨_, ?_, rfl⟩
    exact .refl s
  case ldBcD16 | ldDeD16 | ldHlD16 | ldSpD16 =>
    refine ⟨_, ?_, rfl⟩
    exact setReg16_keeps ..
  case ldBD8 | ldCD8 | ldDD8 | ldED8 | ldHD8 | ldLD8 | ldAD8 =>
    refine ⟨_, ?_, rfl⟩
    exact setReg8_keeps ..
  case incB | incC | incD | incE | incH | incL | incA =>
    refine ⟨_, ?_, rfl⟩
    exact incReg8_keeps ..
  case decB | decC | decD | decE | decH | decL | decA =>
    refine ⟨_, ?_, rfl⟩
    exact decReg8_keeps ..
  case incBc | incDe | incHl | incSp | decBc | decDe | decHl | decSp =>
    refine ⟨_, ?_, rfl⟩
    exact setReg16_keeps ..
  case addHlBc | addHlDe | addHlHl | addHlSp =>
    refine ⟨_, ?_, rfl⟩
    exact addHl_keeps ..
  case rlca =>
    refine ⟨_, ?_, rfl⟩
    exact rotateLeftA_keeps s
  case rrca =>
    refine ⟨_, ?_, rfl⟩
    exact rotateRightA_keeps s
  case incMemHl =>
    refine ⟨_, ?_, rfl⟩
    exact incMem_keeps s
  case decMemHl =>
    refine ⟨_, ?_, rfl⟩
    exact decMem_keeps s
  case ldMemBcA | ldMemDeA | ldMemHlD8 =>
    refine ⟨_, ?_, rfl⟩
    exact writeByte_keeps ..
  case ldAMemBc | ldAMemDe =>
    refine ⟨_, ?_, rfl⟩
    exact loadAIndirect_keeps ..

/-! Fetching. -/

/-- What the fetch of bytes keeps: everything but `pc` and the overlay flag, which it can only clear. -/
structure FetchKeeps (s t : State) : Prop where
  reg8 : ∀ r, t.reg8 r = s.reg8 r
  f : t.f = s.f
  sp : t.sp = s.sp
  run : t.run = s.run
  cycles : t.cycles = s.cycles
  config : t.config = s.config
  array : ∀ r, t.array r = s.array r
  overlay : t.biosMapped = true → s.biosMapped = true

theorem FetchKeeps.refl (s : State) : FetchKeeps s s :=
  ⟨fun _ => rfl, rfl, rfl, rfl, rfl, rfl, fun _ => rfl, id⟩

theorem FetchKeeps.trans {s t u : State} (h : FetchKeeps s t) (k : FetchKeeps t u) : FetchKeeps s u :=
  ⟨fun r => (k.reg8 r).trans (h.reg8 r), k.f.trans h.f, k.sp.trans h.sp, k.run.trans h.run,
    k.cycles.trans h.cycles, k.config.trans h.config, fun r => (k.array r).trans (h.array r),
    h.overlay ∘ k.overlay⟩

theorem fetchByte_keeps (s : State) : FetchKeeps s (fetchByte s).2 :=
  ⟨fun r => readTrigger_reg8 s s.pc r, readTrigger_f s s.pc, readTrigger_sp s s.pc, readTrigger_run s s.pc,
    readTrigger_cycles s s.pc, readTrigger_config s s.pc, fun r => readTrigger_array s s.pc r,
    (readTrigger_keeps s s.pc).overlay⟩

theorem fetchOperands_keeps (n : Nat) (s : State) : FetchKeeps s (fetchOperands n s).2 := by
  induction n generalizing s with
  | zero => exact .refl s
  | succ n ih => exact (fetchByte_keeps s).trans (ih _)

theorem pcTrigger_keeps (s : State) : FetchKeeps s (pcTrigger s) :=
  ⟨fun _ => by simp, by simp, by simp, by simp, by simp, by simp, fun _ => by simp, by simp +contextual [pcTrigger_biosMapped]⟩

theorem fetchOperands_pc (n : Nat) (s : State) : (fetchOperands n s).2.pc = s.pc + BitVec.ofNat 16 n := by
  induction n generalizing s with
  | zero => simp [fetchOperands]
  | succ n ih =>
    rw [fetchOperands]
    simp only [ih]
    rw [show (fetchByte s).2.pc = s.pc + 1 from rfl]
    rw [BitVec.add_assoc, BitVec.ofNat_add, BitVec.add_comm (BitVec.ofNat 16 n)]
    rfl

theorem fetchOperands_length (n : Nat) (s : State) : (fetchOperands n s).1.length = n := by
  induction n generalizing s with
  | zero => rfl
  | succ n ih => simp [fetchOperands, ih]

/-- What a fetch gives: an admitted opcode's instruction, or the sentinel. -/
theorem fetchInstr_cases (s : State) :
    (∃ t, fetchInstr s = .unknown (fetchByte (pcTrigger s)).1 s.pc t ∧
      (table s.config.stopLength (fetchByte (pcTrigger s)).1).build = none ∧
      t.pc = s.pc + 1 ∧ FetchKeeps s t) ∨
    (∃ ops build t, fetchInstr s = .instr s.pc (fetchByte (pcTrigger s)).1 ops (build ops) t ∧
      (table s.config.stopLength (fetchByte (pcTrigger s)).1).build = some build ∧
      ops.length = (table s.config.stopLength (fetchByte (pcTrigger s)).1).length - 1 ∧
      t.pc = s.pc + 1 + BitVec.ofNat 16 ops.length ∧ FetchKeeps s t) := by
  have hk := (pcTrigger_keeps s).trans (fetchByte_keeps (pcTrigger s))
  have hpc : (fetchByte (pcTrigger s)).2.pc = s.pc + 1 := by simp [fetchByte]
  unfold fetchInstr
  cases h : (table s.config.stopLength (fetchByte (pcTrigger s)).1).build with
  | none => exact .inl ⟨_, by simp [h], rfl, hpc, hk⟩
  | some build =>
    refine .inr ⟨_, build, _, by simp only [h]; rfl, rfl, fetchOperands_length _ _, ?_,
      hk.trans (fetchOperands_keeps _ _)⟩
    rw [fetchOperands_pc, hpc, fetchOperands_length]

/-- What a step can do. -/
theorem step_cases (s : State) :
    (∃ r, s.run = .halted r ∧ step s = .next s) ∨
    (s.run = .running ∧ ∃ op a0 t, fetchInstr s = .unknown op a0 t ∧
      step s = .next (raiseFault (.unknownInstruction op a0) t)) ∨
    (s.run = .running ∧ ∃ a0 op ops i t, fetchInstr s = .instr a0 op ops i t ∧ step s = exec i t) := by
  unfold step
  cases hr : s.run with
  | halted r => exact .inl ⟨r, rfl, rfl⟩
  | running =>
    cases hf : fetchInstr s with
    | unknown op a0 t => exact .inr (.inl ⟨rfl, op, a0, t, rfl, rfl⟩)
    | instr a0 op ops i t => exact .inr (.inr ⟨rfl, a0, op, ops, i, t, rfl, rfl⟩)

end Sys2Proof.Machine
end

