-- ==== Sys2Proof/Laws/PerInstr.lean ====
section
/-! SUPPORT. What holds of each instruction as syntax, one lemma a constructor: its encoding is headed by an opcode
that has a handler, and is as long as the dispatch table says (30_encoding.md R90, R95, R99). -/

namespace Sys2Proof.Laws.EncodedLength

/-- A well-formed instruction's encoding starts with an opcode of the admitted set and has the length the dispatch
table gives for that opcode. -/
def Statement (i : Instr) : Prop :=
  ∀ n : StopLength, i.wellFormed n = true →
    (table n i.opcode).build.isSome = true ∧ (encode i).length = (table n i.opcode).length

theorem nop : Statement .nop := fun _ _ => ⟨rfl, rfl⟩

theorem ldBcD16 (v : Word) : Statement (.ldBcD16 v) := fun _ _ => ⟨rfl, rfl⟩

theorem ldMemBcA : Statement .ldMemBcA := fun _ _ => ⟨rfl, rfl⟩

theorem incBc : Statement .incBc := fun _ _ => ⟨rfl, rfl⟩

theorem incB : Statement .incB := fun _ _ => ⟨rfl, rfl⟩

theorem decB : Statement .decB := fun _ _ => ⟨rfl, rfl⟩

theorem ldBD8 (v : Byte) : Statement (.ldBD8 v) := fun _ _ => ⟨rfl, rfl⟩

theorem rlca : Statement .rlca := fun _ _ => ⟨rfl, rfl⟩

theorem addHlBc : Statement .addHlBc := fun _ _ => ⟨rfl, rfl⟩

theorem ldAMemBc : Statement .ldAMemBc := fun _ _ => ⟨rfl, rfl⟩

theorem decBc : Statement .decBc := fun _ _ => ⟨rfl, rfl⟩

theorem incC : Statement .incC := fun _ _ => ⟨rfl, rfl⟩

theorem decC : Statement .decC := fun _ _ => ⟨rfl, rfl⟩

theorem ldCD8 (v : Byte) : Statement (.ldCD8 v) := fun _ _ => ⟨rfl, rfl⟩

theorem rrca : Statement .rrca := fun _ _ => ⟨rfl, rfl⟩

theorem stop (ignored : Option Byte) : Statement (.stop ignored) := by
  intro n h
  cases ignored <;> cases n <;> first | exact ⟨rfl, rfl⟩ | cases h

theorem ldDeD16 (v : Word) : Statement (.ldDeD16 v) := fun _ _ => ⟨rfl, rfl⟩

theorem ldMemDeA : Statement .ldMemDeA := fun _ _ => ⟨rfl, rfl⟩

theorem incDe : Statement .incDe := fun _ _ => ⟨rfl, rfl⟩

theorem incD : Statement .incD := fun _ _ => ⟨rfl, rfl⟩

theorem decD : Statement .decD := fun _ _ => ⟨rfl, rfl⟩

theorem ldDD8 (v : Byte) : Statement (.ldDD8 v) := fun _ _ => ⟨rfl, rfl⟩

theorem addHlDe : Statement .addHlDe := fun _ _ => ⟨rfl, rfl⟩

theorem ldAMemDe : Statement .ldAMemDe := fun _ _ => ⟨rfl, rfl⟩

theorem decDe : Statement .decDe := fun _ _ => ⟨rfl, rfl⟩

theorem incE : Statement .incE := fun _ _ => ⟨rfl, rfl⟩

theorem decE : Statement .decE := fun _ _ => ⟨rfl, rfl⟩

theorem ldED8 (v : Byte) : Statement (.ldED8 v) := fun _ _ => ⟨rfl, rfl⟩

theorem ldHlD16 (v : Word) : Statement (.ldHlD16 v) := fun _ _ => ⟨rfl, rfl⟩

theorem incHl : Statement .incHl := fun _ _ => ⟨rfl, rfl⟩

theorem incH : Statement .incH := fun _ _ => ⟨rfl, rfl⟩

theorem decH : Statement .decH := fun _ _ => ⟨rfl, rfl⟩

theorem ldHD8 (v : Byte) : Statement (.ldHD8 v) := fun _ _ => ⟨rfl, rfl⟩

theorem addHlHl : Statement .addHlHl := fun _ _ => ⟨rfl, rfl⟩

theorem decHl : Statement .decHl := fun _ _ => ⟨rfl, rfl⟩

theorem incL : Statement .incL := fun _ _ => ⟨rfl, rfl⟩

theorem decL : Statement .decL := fun _ _ => ⟨rfl, rfl⟩

theorem ldLD8 (v : Byte) : Statement (.ldLD8 v) := fun _ _ => ⟨rfl, rfl⟩

theorem ldSpD16 (v : Word) : Statement (.ldSpD16 v) := fun _ _ => ⟨rfl, rfl⟩

theorem incSp : Statement .incSp := fun _ _ => ⟨rfl, rfl⟩

theorem incMemHl : Statement .incMemHl := fun _ _ => ⟨rfl, rfl⟩

theorem decMemHl : Statement .decMemHl := fun _ _ => ⟨rfl, rfl⟩

theorem ldMemHlD8 (v : Byte) : Statement (.ldMemHlD8 v) := fun _ _ => ⟨rfl, rfl⟩

theorem addHlSp : Statement .addHlSp := fun _ _ => ⟨rfl, rfl⟩

theorem decSp : Statement .decSp := fun _ _ => ⟨rfl, rfl⟩

theorem incA : Statement .incA := fun _ _ => ⟨rfl, rfl⟩

theorem decA : Statement .decA := fun _ _ => ⟨rfl, rfl⟩

theorem ldAD8 (v : Byte) : Statement (.ldAD8 v) := fun _ _ => ⟨rfl, rfl⟩

end Sys2Proof.Laws.EncodedLength
end

