-- ==== Sys2Proof/Tests/Slice0.lean ====
section
/-! SUPPORT. Tests. The expected results are the vectors of 95_test_vectors.md (each named by its id) and words written
out from R93; at the end, for each statement that has hypotheses, a state and operands that meet them. -/

namespace Sys2Proof.Tests

open Sys2Proof.Machine

/-- The machine after `new(rom)` (R230), the ROM image being these bytes. -/
def romState (bytes : List Byte) : State := { State.reset with rom := Memory.ofImage 32768 bytes }

/-- The machine that 95_test_vectors.md section 2.2 starts from, cut down to the bytes its vectors read. -/
def mappedState : State :=
  { State.reset with
    bios := [(0x00, 0xB0), (0x10, 0xB0), (0xFF, 0xB0)]
    rom := [(0x10, 0x10), (0x7FFF, 0xFF)]
    biosMapped := true }

/-- K10's machine: LD B,d8 at 0x00FF under the overlay, its operand at 0x0100. -/
def straddle (trigger : OverlayTrigger) : State :=
  { State.reset with
    bios := [(0xFF, 0x06)], rom := [(0x100, 0x42)], biosMapped := true, pc := 0x00FF
    config := { Config.specDefault with overlayTrigger := trigger } }

/-- No RAM image, for a construction under `RAM_INIT` = zero. -/
def noRam : RamImage := { vram := [], eram := [], wram := [], oam := [], hram := [] }

/-! WellFormed: the one check, refused on an ill-formed term for each length of STOP. -/

theorem test_wellFormed_stop_without_operand : (Instr.stop none).wellFormed .two = false := by decide

theorem test_wellFormed_stop_with_operand : (Instr.stop (some 0x00)).wellFormed .one = false := by decide

theorem test_wellFormed_stop : (Instr.stop (some 0x00)).wellFormed .two = true ∧
    (Instr.stop none).wellFormed .one = true := by decide

/-! Decode: every constructor from a word written out from R93. -/

theorem test_decode_control :
    decodeTableWord 8 0x00 = some (.nop) ∧
    decodeTableWord 16 0x10 = some (.stop (some 0x00)) := by
  decide

theorem test_decode_incRegister :
    decodeTableWord 8 0x04 = some (.incB) ∧
    decodeTableWord 8 0x0C = some (.incC) ∧
    decodeTableWord 8 0x14 = some (.incD) ∧
    decodeTableWord 8 0x1C = some (.incE) ∧
    decodeTableWord 8 0x24 = some (.incH) ∧
    decodeTableWord 8 0x2C = some (.incL) ∧
    decodeTableWord 8 0x3C = some (.incA) := by
  decide

theorem test_decode_decRegister :
    decodeTableWord 8 0x05 = some (.decB) ∧
    decodeTableWord 8 0x0D = some (.decC) ∧
    decodeTableWord 8 0x15 = some (.decD) ∧
    decodeTableWord 8 0x1D = some (.decE) ∧
    decodeTableWord 8 0x25 = some (.decH) ∧
    decodeTableWord 8 0x2D = some (.decL) ∧
    decodeTableWord 8 0x3D = some (.decA) := by
  decide

theorem test_decode_incDecMemory :
    decodeTableWord 8 0x34 = some (.incMemHl) ∧
    decodeTableWord 8 0x35 = some (.decMemHl) := by
  decide

theorem test_decode_incPair :
    decodeTableWord 8 0x03 = some (.incBc) ∧
    decodeTableWord 8 0x13 = some (.incDe) ∧
    decodeTableWord 8 0x23 = some (.incHl) ∧
    decodeTableWord 8 0x33 = some (.incSp) := by
  decide

theorem test_decode_decPair :
    decodeTableWord 8 0x0B = some (.decBc) ∧
    decodeTableWord 8 0x1B = some (.decDe) ∧
    decodeTableWord 8 0x2B = some (.decHl) ∧
    decodeTableWord 8 0x3B = some (.decSp) := by
  decide

theorem test_decode_addPair :
    decodeTableWord 8 0x09 = some (.addHlBc) ∧
    decodeTableWord 8 0x19 = some (.addHlDe) ∧
    decodeTableWord 8 0x29 = some (.addHlHl) ∧
    decodeTableWord 8 0x39 = some (.addHlSp) := by
  decide

theorem test_decode_rotate :
    decodeTableWord 8 0x07 = some (.rlca) ∧
    decodeTableWord 8 0x0F = some (.rrca) := by
  decide

theorem test_decode_loadPair :
    decodeTableWord 24 0x123401 = some (.ldBcD16 0x1234) ∧
    decodeTableWord 24 0xC00011 = some (.ldDeD16 0xC000) ∧
    decodeTableWord 24 0x56ED21 = some (.ldHlD16 0x56ED) ∧
    decodeTableWord 24 0xFFFE31 = some (.ldSpD16 0xFFFE) := by
  decide

theorem test_decode_indirect :
    decodeTableWord 8 0x02 = some (.ldMemBcA) ∧
    decodeTableWord 8 0x12 = some (.ldMemDeA) ∧
    decodeTableWord 8 0x0A = some (.ldAMemBc) ∧
    decodeTableWord 8 0x1A = some (.ldAMemDe) := by
  decide

theorem test_decode_loadRegister :
    decodeTableWord 16 0x0506 = some (.ldBD8 0x05) ∧
    decodeTableWord 16 0x800E = some (.ldCD8 0x80) ∧
    decodeTableWord 16 0x8116 = some (.ldDD8 0x81) ∧
    decodeTableWord 16 0x821E = some (.ldED8 0x82) ∧
    decodeTableWord 16 0x8326 = some (.ldHD8 0x83) ∧
    decodeTableWord 16 0x842E = some (.ldLD8 0x84) ∧
    decodeTableWord 16 0x853E = some (.ldAD8 0x85) ∧
    decodeTableWord 16 0xAA36 = some (.ldMemHlD8 0xAA) := by
  decide

theorem test_decode_bytes : decode .two [0x01, 0x34, 0x12, 0x99] = .ok (.ldBcD16 0x1234, [0x99]) := rfl

theorem test_decode_cb : decode .two [0xCB, 0x00] = .error (.unknownOpcode 0xCB) := rfl

theorem test_decode_stop_one_byte : decode .one [0x10, 0x04] = .ok (.stop none, [0x04]) := rfl

theorem test_decode_truncated : decode .two [0x21, 0x34] = .error .truncated := rfl

theorem test_decode_short_row : decodeTableWord 8 0x10 = some (.stop (some 0x00)) := by decide

theorem test_withFetchWord : (stepState (State.reset.withFetchWord 24 0x123401)).reg16 .bc = 0x1234 ∧
    (stepState (State.reset.withFetchWord 24 0x123401)).pc = 3 := by decide

/-! Register file and flags (S1, S2, V). -/

theorem test_S1a : ((State.reset.setReg16 .bc 0x1234).setReg8 .c 0x99).reg16 .bc = 0x1299 ∧
    (State.reset.setReg16 .bc 0x1234).b = 0x12 ∧ (State.reset.setReg16 .bc 0x1234).c = 0x34 := by decide

theorem test_S1b : (State.reset.writeAF 0x12F0).readAF = 0x12F0 ∧ (State.reset.writeAF 0x12FF).readAF = 0x12F0 ∧
    ((State.reset.writeAF 0x12FF).setReg8 .a 0x55).readAF = 0x55F0 := by decide

theorem test_S2 : ({ State.reset with f := 0x50 }.setFlag .h true).f = 0x70 ∧
    (({ State.reset with f := 0x50 }.setFlag .h true).setFlag .h false).f = 0x50 := by decide

theorem test_V3_V4 : (State.reset.writeF 0xFF).readF = 0xF0 ∧ (State.reset.writeF 0x0F).readF = 0x00 := by decide

theorem test_V5_V6 : (State.reset.enableFlag .c).f = 0x10 ∧
    ({ State.reset with f := 0xF0 }.disableFlag .z).f = 0x70 := by decide

theorem test_V7 : ({ State.reset with sp := 0xFFFE }.setReg16 .sp 0x1234).sp = 0x1234 := by decide

/-! Address decoder (S5 to S7, M). -/

theorem test_M1_M2 : readByte mappedState 0x0000 = (0xB0, mappedState) ∧
    readByte mappedState 0x00FF = (0xB0, mappedState) := by decide

theorem test_M3_M6 : writeByte mappedState 0x0010 0x99 = mappedState ∧
    writeByte mappedState 0x4000 0x99 = mappedState := by decide

theorem test_M4_M5 : (readByte mappedState 0x0100).1 = 0x00 ∧ (readByte mappedState 0x0100).2.biosMapped = false ∧
    (readByte mappedState 0x0100).2.peek 0x0010 = 0x10 := by decide

theorem test_S5_reset_keeps_overlay_off : (resetCore (readByte mappedState 0x0100).2).peek 0x0010 = 0x10 := by decide

theorem test_M7_M8 : (writeByte State.reset 0x9FFF 0x11).vram = [(0x1FFF, 0x11)] ∧
    (writeByte State.reset 0xA000 0x22).eram = [(0, 0x22)] := by decide

theorem test_M9 : (writeByte State.reset 0xDFFF 0x33).peek 0xFDFF = 0x00 ∧
    (writeByte State.reset 0xDDFF 0x44).peek 0xFDFF = 0x44 := by decide

theorem test_S6 : (writeByte State.reset 0xC010 0x5A).peek 0xE010 = 0x5A ∧
    (writeByte State.reset 0xE011 0xA5).peek 0xC011 = 0xA5 := by decide

theorem test_S7_M10 : (writeByte State.reset 0xFEA0 0x77).peek 0xFEA0 = 0x00 ∧
    (writeByte State.reset 0xFE00 0x77).peek 0xFE00 = 0x77 ∧
    (writeByte State.reset 0xFE9F 0x55).oam = [(0x9F, 0x55)] := by decide

theorem test_M12_M13 : writeByte State.reset 0xFF40 0x91 = State.reset ∧ State.reset.peek 0xFF7F = 0x00 := by decide

theorem test_M14_M15 : (writeByte State.reset 0xFF80 0x66).hram = [(0, 0x66)] ∧
    (writeByte State.reset 0xFFFF 0x77).hram = [(0x7F, 0x77)] := by decide

theorem test_M16 : (writeShort State.reset 0xC000 0xBEEF).wram = [(0, 0xEF), (1, 0xBE)] ∧
    (readShort (writeShort State.reset 0xC000 0xBEEF) 0xC000).1 = 0xBEEF := by decide

theorem test_M17 : writeShort State.reset 0xFFFF 0x1234 = { State.reset with hram := [(0x7F, 0x34)] } := by decide

theorem test_M18 : (readShort mappedState 0x00FF).1 = 0x00B0 ∧
    (readShort mappedState 0x00FF).2.biosMapped = false := by decide

theorem test_M20 : fetchRegion State.reset 0xDFFF 2 = .error (.invalidRegionSpan 0xDFFF 2) := rfl

theorem test_M21_M22 : fetchRegion State.reset 0xFE9F 2 = .error (.invalidRegionSpan 0xFE9F 2) ∧
    fetchRegion State.reset 0xFFFF 2 = .error (.invalidRegionSpan 0xFFFF 2) := ⟨rfl, rfl⟩

/-! 8-bit INC and DEC (S4, I, D). Each is one step from ROM address 0. -/

theorem test_S4a_incB :
    let t := stepState { romState [0x04] with b := 0x0F }
    t.b = 0x10 ∧ t.f = 0x20 ∧ t.cycles = 4 := by decide

theorem test_S4b_decB :
    let t := stepState { romState [0x05] with b := 0x10 }
    t.b = 0x0F ∧ t.f = 0x60 ∧ t.cycles = 4 := by decide

theorem test_S4c_incB :
    let t := stepState { romState [0x04] with b := 0xFF }
    t.b = 0x00 ∧ t.f = 0xA0 ∧ t.cycles = 4 := by decide

theorem test_I1_incC :
    let t := stepState { romState [0x0C] with c := 0x00 }
    t.c = 0x01 ∧ t.f = 0x00 ∧ t.cycles = 4 := by decide

theorem test_I2_incD :
    let t := stepState { romState [0x14] with d := 0x0F, f := 0x40 }
    t.d = 0x10 ∧ t.f = 0x20 ∧ t.cycles = 4 := by decide

theorem test_I3_incE :
    let t := stepState { romState [0x1C] with e := 0xFF, f := 0x10 }
    t.e = 0x00 ∧ t.f = 0xB0 ∧ t.cycles = 4 := by decide

theorem test_I4_incH :
    let t := stepState { romState [0x24] with h := 0x7F }
    t.h = 0x80 ∧ t.f = 0x20 ∧ t.cycles = 4 := by decide

theorem test_I5_incL :
    let t := stepState { romState [0x2C] with l := 0xFE, f := 0xF0 }
    t.l = 0xFF ∧ t.f = 0x10 ∧ t.cycles = 4 := by decide

theorem test_I6_incA :
    let t := stepState { romState [0x3C] with a := 0x09 }
    t.a = 0x0A ∧ t.f = 0x00 ∧ t.cycles = 4 := by decide

theorem test_I7_incMem :
    let t := stepState { romState [0x34] with h := 0xC1, wram := [(0x100, 0xFF)] }
    t.wram = [] ∧ t.f = 0xA0 ∧ t.cycles = 8 := by decide

theorem test_I8_incMem_rom :
    let s := { State.reset with rom := [(0, 0x34), (0x1234, 0x0F)], h := 0x12, l := 0x34 }
    (stepState s).rom = s.rom ∧ (stepState s).f = 0x20 := by decide

theorem test_D1v_decB :
    let t := stepState { romState [0x05] with b := 0x00 }
    t.b = 0xFF ∧ t.f = 0x60 ∧ t.cycles = 4 := by decide

theorem test_D2v_decC :
    let t := stepState { romState [0x0D] with c := 0x01 }
    t.c = 0x00 ∧ t.f = 0xC0 ∧ t.cycles = 4 := by decide

theorem test_D3v_decD :
    let t := stepState { romState [0x15] with d := 0x80, f := 0x10 }
    t.d = 0x7F ∧ t.f = 0x70 ∧ t.cycles = 4 := by decide

theorem test_D4v_decE :
    let t := stepState { romState [0x1D] with e := 0x21, f := 0xA0 }
    t.e = 0x20 ∧ t.f = 0x40 ∧ t.cycles = 4 := by decide

theorem test_D5v_decH :
    let t := stepState { romState [0x25] with h := 0x10 }
    t.h = 0x0F ∧ t.f = 0x60 ∧ t.cycles = 4 := by decide

theorem test_D6v_decL :
    let t := stepState { romState [0x2D] with l := 0x02 }
    t.l = 0x01 ∧ t.f = 0x40 ∧ t.cycles = 4 := by decide

theorem test_D7v_decA :
    let t := stepState { romState [0x3D] with a := 0xF0 }
    t.a = 0xEF ∧ t.f = 0x60 ∧ t.cycles = 4 := by decide

theorem test_D8v_decMem :
    let t := stepState { romState [0x35] with h := 0x80 }
    t.vram = [(0, 0xFF)] ∧ t.f = 0x60 ∧ t.cycles = 8 := by decide

theorem test_D9v_decMem_oam_tail :
    let t := stepState { romState [0x35] with h := 0xFE, l := 0xA5 }
    t.oam = [] ∧ t.f = 0x60 ∧ t.cycles = 8 := by decide

/-! 16-bit INC, DEC and ADD (W, A). -/

theorem test_W1_incBc :
    let t := stepState { romState [0x03] with c := 0xFF, f := 0x90 }
    t.reg16 .bc = 0x0100 ∧ t.f = 0x90 ∧ t.cycles = 8 := by decide

theorem test_W2_incDe :
    let t := stepState { romState [0x13] with d := 0xFF, e := 0xFF }
    t.reg16 .de = 0x0000 ∧ t.f = 0x00 ∧ t.cycles = 8 := by decide

theorem test_W3_incHl :
    let t := stepState { romState [0x23] with h := 0x7F, l := 0xFF }
    t.reg16 .hl = 0x8000 ∧ t.f = 0x00 ∧ t.cycles = 8 := by decide

theorem test_W4_incSp :
    let t := stepState { romState [0x33] with sp := 0xFFFF }
    t.sp = 0x0000 ∧ t.f = 0x00 ∧ t.cycles = 8 := by decide

theorem test_W5_decBc :
    let t := stepState (romState [0x0B])
    t.reg16 .bc = 0xFFFF ∧ t.f = 0x00 ∧ t.cycles = 8 := by decide

theorem test_W6_decDe :
    let t := stepState { romState [0x1B] with d := 0x01 }
    t.reg16 .de = 0x00FF ∧ t.f = 0x00 ∧ t.cycles = 8 := by decide

theorem test_W7_decHl :
    let t := stepState { romState [0x2B] with l := 0x01, f := 0x70 }
    t.reg16 .hl = 0x0000 ∧ t.f = 0x70 ∧ t.cycles = 8 := by decide

theorem test_W8_decSp :
    let t := stepState { romState [0x3B] with sp := 0x8000 }
    t.sp = 0x7FFF ∧ t.f = 0x00 ∧ t.cycles = 8 := by decide

theorem test_A1_addBc :
    let t := stepState { romState [0x09] with h := 0x0F, l := 0xFF, c := 0x01, f := 0x40 }
    t.reg16 .hl = 0x1000 ∧ t.f = 0x20 ∧ t.cycles = 8 := by decide

theorem test_S10_addBc :
    let t := stepState { romState [0x09] with h := 0x80, b := 0x80 }
    t.reg16 .hl = 0x0000 ∧ t.f = 0x10 ∧ t.cycles = 8 := by decide

theorem test_A2_addDe :
    let t := stepState { romState [0x19] with h := 0xFF, l := 0xFF, e := 0x01 }
    t.reg16 .hl = 0x0000 ∧ t.f = 0x30 ∧ t.cycles = 8 := by decide

theorem test_A3_addDe :
    let t := stepState { romState [0x19] with h := 0x12, l := 0x34, d := 0x11, e := 0x11, f := 0x80 }
    t.reg16 .hl = 0x2345 ∧ t.f = 0x80 ∧ t.cycles = 8 := by decide

theorem test_A4_addHl :
    let t := stepState { romState [0x29] with h := 0x88 }
    t.reg16 .hl = 0x1000 ∧ t.f = 0x30 ∧ t.cycles = 8 := by decide

theorem test_A5_addHl :
    let t := stepState { romState [0x29] with h := 0x40 }
    t.reg16 .hl = 0x8000 ∧ t.f = 0x00 ∧ t.cycles = 8 := by decide

theorem test_A6_addSp :
    let t := stepState { romState [0x39] with h := 0xF0, sp := 0x1000, f := 0xF0 }
    t.reg16 .hl = 0x0000 ∧ t.f = 0x90 ∧ t.cycles = 8 := by decide

/-! Rotates (T). -/

theorem test_T1_rlca :
    let t := stepState { romState [0x07] with a := 0x00, f := 0xF0 }
    t.a = 0x00 ∧ t.f = 0x00 ∧ t.cycles = 4 := by decide

theorem test_T3_rlca :
    let t := stepState { romState [0x07] with a := 0x85 }
    t.a = 0x0B ∧ t.f = 0x10 ∧ t.cycles = 4 := by decide

theorem test_T6_rrca :
    let t := stepState { romState [0x0F] with a := 0x01 }
    t.a = 0x80 ∧ t.f = 0x10 ∧ t.cycles = 4 := by decide

theorem test_T8_rrca :
    let t := stepState { romState [0x0F] with a := 0xFE, f := 0x10 }
    t.a = 0x7F ∧ t.f = 0x00 ∧ t.cycles = 4 := by decide

/-! Loads (L, S8). -/

theorem test_L1_ldBc :
    let t := stepState { romState [0x01, 0x34, 0x12] with f := 0xF0 }
    t.reg16 .bc = 0x1234 ∧ t.pc = 3 ∧ t.f = 0xF0 ∧ t.cycles = 12 := by decide

theorem test_L2_ldDe :
    let t := stepState (romState [0x11, 0x00, 0xC0])
    t.reg16 .de = 0xC000 ∧ t.pc = 3 ∧ t.cycles = 12 := by decide

theorem test_L3_ldHl :
    let t := stepState (romState [0x21, 0xFF, 0xFF])
    t.reg16 .hl = 0xFFFF ∧ t.pc = 3 ∧ t.cycles = 12 := by decide

theorem test_L4_ldSp :
    let t := stepState (romState [0x31, 0xFE, 0xFF])
    t.sp = 0xFFFE ∧ t.pc = 3 ∧ t.cycles = 12 := by decide

theorem test_L5_storeBc :
    let t := stepState { romState [0x02] with b := 0xC0, c := 0x10, a := 0x42 }
    t.wram = [(0x010, 0x42)] ∧ t.pc = 1 ∧ t.cycles = 8 := by decide

theorem test_L6_storeDe_rom :
    let t := stepState { romState [0x12] with d := 0x20, a := 0x42 }
    t.rom = [(0, 0x12)] ∧ t.a = 0x42 ∧ t.cycles = 8 := by decide

theorem test_L7_loadBc_echo :
    let t := stepState { romState [0x0A] with b := 0xE0, c := 0x10, wram := [(0x010, 0x42)] }
    t.a = 0x42 ∧ t.pc = 1 ∧ t.cycles = 8 := by decide

theorem test_L8_loadDe_oam_tail :
    let t := stepState { romState [0x1A] with d := 0xFE, e := 0xA0, a := 0x99 }
    t.a = 0x00 ∧ t.pc = 1 ∧ t.cycles = 8 := by decide

theorem test_L9_overlay :
    let t := stepState { State.reset with
      bios := [(0, 0x0A)], rom := [(0x100, 0x77)], b := 0x01, biosMapped := true }
    t.a = 0x77 ∧ t.biosMapped = false ∧ t.cycles = 8 := by decide

theorem test_S8_ldB :
    let t := stepState (romState [0x06, 0x05, 0x04])
    t.b = 0x05 ∧ t.pc = 2 ∧ t.cycles = 8 := by decide

theorem test_L11_ldC :
    let t := stepState (romState [0x0E, 0x80])
    t.c = 0x80 ∧ t.pc = 2 ∧ t.cycles = 8 := by decide

theorem test_L11_ldD :
    let t := stepState (romState [0x16, 0x81])
    t.d = 0x81 ∧ t.pc = 2 ∧ t.cycles = 8 := by decide

theorem test_L11_ldE :
    let t := stepState (romState [0x1E, 0x82])
    t.e = 0x82 ∧ t.pc = 2 ∧ t.cycles = 8 := by decide

theorem test_L11_ldH :
    let t := stepState (romState [0x26, 0x83])
    t.h = 0x83 ∧ t.pc = 2 ∧ t.cycles = 8 := by decide

theorem test_L11_ldL :
    let t := stepState (romState [0x2E, 0x84])
    t.l = 0x84 ∧ t.pc = 2 ∧ t.cycles = 8 := by decide

theorem test_L11_ldA :
    let t := stepState (romState [0x3E, 0x85])
    t.a = 0x85 ∧ t.pc = 2 ∧ t.cycles = 8 := by decide

theorem test_L12_storeImmediate :
    let t := stepState { romState [0x36, 0xAA] with h := 0x80 }
    t.vram = [(0, 0xAA)] ∧ t.pc = 2 ∧ t.cycles = 8 := by decide

theorem test_L13_storeImmediate :
    let t := stepState { romState [0x36, 0xAA] with h := 0xFF, l := 0xFF }
    t.hram = [(0x7F, 0xAA)] ∧ t.pc = 2 ∧ t.cycles = 8 := by decide

/-! Control and the step (K, S9). -/

theorem test_K1_nop : step State.reset = .next { State.reset with pc := 1, cycles := 4 } := rfl

theorem test_K2_stop : stepResult (romState [0x10, 0x00]) = .stopped ∧
    stepState (romState [0x10, 0x00]) = { romState [0x10, 0x00] with pc := 2, run := .halted .stop } := by decide

theorem test_K4_stop_one_byte :
    (stepState { romState [0x10] with config := { Config.specDefault with stopLength := .one } }).pc = 1 := by decide

theorem test_K5_S9_unknown : stepResult (romState [0xD3]) = .error (.unknownInstruction 0xD3 0) ∧
    stepState (romState [0xCB]) =
      { romState [0xCB] with pc := 1, run := .halted (.fault (.unknownInstruction 0xCB 0)) } := by decide

theorem test_K6 : ([0x08, 0x17, 0x18, 0x1F, 0x20, 0x22, 0x27, 0x28, 0x2A, 0x2F, 0x30, 0x32, 0x37, 0x38, 0x3A, 0x3F,
    0x40, 0x76, 0xC3, 0xFF] : List Byte).all (fun op => !admitted op) = true := by decide

theorem test_K7 : stepResult (resetCore (stepState (romState [0xCB]))) = .error (.unknownInstruction 0xCB 0) := by
  decide

theorem test_K8_K9 : (stepState { State.reset with pc := 0xFFFF }).pc = 0x0000 ∧
    (stepState { State.reset with pc := 0xFFFF, hram := [(0x7F, 0x06)] }).pc = 0x0001 := by decide

theorem test_K10 : (stepState (straddle .readAt0100)).b = 0x42 ∧ (stepState (straddle .readAt0100)).pc = 0x0101 ∧
    (stepState (straddle .readAt0100)).biosMapped = false := by decide

theorem test_K11 : (stepState (straddle .pcReaches0100)).b = 0x42 ∧
    (stepState (straddle .pcReaches0100)).biosMapped = true := by decide

theorem test_pc_trigger :
    (stepState { straddle .pcReaches0100 with pc := 0x0100, rom := [(0x100, 0x0A), (0, 0x5A)] }).a = 0x5A := by decide

theorem test_K12_hook :
    let hooked := { romState [0x06, 0x05, 0xCB] with config := { Config.specDefault with traceHook := true } }
    stepTrace hooked = some { addr := 0, opcode := 0x06, operands := [0x05], cycles := 8 } ∧
    stepTrace { hooked with pc := 2 } = none := by decide

/-! Construction and reset (N). -/

theorem test_N1 : construct Config.specDefault noRam (.biosRom (List.replicate 255 0) []) = .error .invalidBios := by
  rw [construct, biosContents, if_neg (by rw [List.length_replicate]; decide)]

theorem test_N5 : construct Config.specDefault noRam (.rom [0xAA]) =
    .ok { State.reset with rom := [(0, 0xAA)] } := rfl

theorem test_new_is_reset : construct Config.specDefault noRam .none = .ok State.reset := rfl

theorem test_N6 : resetCore { State.reset with
      a := 1, f := 0x80, sp := 5, pc := 9, cycles := 500, run := .halted .stop, wram := [(0, 7)] } =
    { State.reset with wram := [(0, 7)] } := by decide

/-! The hypotheses of the statements are met: for each statement with hypotheses, by a concrete state and operands. -/

theorem reset_costsReal : State.reset.costsReal := fun _ h => absurd h (List.not_mem_nil)

theorem reset_inv : State.reset.Inv := ⟨reset_memoryWf, rfl, fun _ h => nomatch h⟩

theorem test_witness_HostResetRestartsCore : State.reset.config.resetRegs = ResetRegs.zero := rfl

theorem test_witness_ConstructionLoadsRomImage : ([0xAA] : List Byte).length ≤ 32768 ∧
    (List.replicate 32768 (0xAA : Byte)).length ≤ 32768 ∧ Config.specDefault.ramInit = .zero ∧
    0x8000 ≤ (0x8000#16).toNat ∧ (0x7FFF#16).toNat < 0x8000 := ⟨by decide, by rw [List.length_replicate], rfl, by decide, by decide⟩

theorem test_witness_ConstructionMapsBios : (List.replicate 256 (0xB0 : Byte)).length = 256 ∧
    ([0xC3] : List Byte).length ≤ 32768 ∧ (0x00FF#16).toNat < 0x100 ∧ 0x100 ≤ (0x0100#16).toNat ∧
    (0x0100#16).toNat < 0x8000 := ⟨List.length_replicate, by decide, by decide, by decide, by decide⟩

theorem test_witness_ConstructionChecksImages_bios : (List.replicate 255 (0 : Byte)).length ≠ 256 ∧
    (List.replicate 257 (0 : Byte)).length ≠ 256 := by
  constructor <;> rw [List.length_replicate] <;> decide

/-- A BIOS image and an oversized ROM image. -/
def oversized : Images := .biosRom (List.replicate 256 0xB0) (List.replicate 40000 0)

theorem oversized_biosContents : biosContents oversized = .ok (Memory.ofImage 256 (List.replicate 256 0xB0)) := by
  rw [oversized, biosContents, if_pos List.length_replicate]

theorem oversized_length : 32768 < oversized.romImage.length := by
  rw [oversized, Images.romImage, List.length_replicate]; decide

theorem test_witness_ConstructionChecksImages_refuse :
    biosContents oversized = .ok (Memory.ofImage 256 (List.replicate 256 0xB0)) ∧
    32768 < oversized.romImage.length ∧ Config.specDefault.romOversize = .refuse :=
  ⟨oversized_biosContents, oversized_length, rfl⟩

theorem test_witness_ConstructionChecksImages_truncate :
    biosContents oversized = .ok (Memory.ofImage 256 (List.replicate 256 0xB0)) ∧
    32768 < oversized.romImage.length ∧ { Config.specDefault with romOversize := .truncate }.romOversize = .truncate :=
  ⟨oversized_biosContents, oversized_length, rfl⟩

theorem test_witness_DecodeOfEncode : (Instr.ldHlD16 0x8001).wellFormed .two = true := rfl

theorem test_witness_EncodeOfDecode : decode .two [0x21, 0x01, 0x80] = .ok (.ldHlD16 0x8001, []) := rfl

theorem test_witness_SentinelSlots : (table .two 0xCB#8).build = none := rfl

theorem test_witness_StepRunsDecodedInstruction : (romState [0x06, 0x05, 0x04]).run = .running ∧
    decode (romState [0x06, 0x05, 0x04]).config.stopLength
      [(romState [0x06, 0x05, 0x04]).peek 0, (romState [0x06, 0x05, 0x04]).peek 1,
        (romState [0x06, 0x05, 0x04]).peek 2] = .ok (.ldBD8 0x05, [0x04]) := ⟨rfl, rfl⟩

theorem test_witness_UnknownOpcodeHalts : (romState [0xCB]).run = .running ∧
    admitted ((romState [0xCB]).peek (romState [0xCB]).pc) = false := ⟨rfl, rfl⟩

theorem test_witness_HaltedForGood : { State.reset with run := .halted (.fault (.unknownInstruction 0xCB 0)) }.run =
    .halted (.fault (.unknownInstruction 0xCB 0)) := rfl

theorem test_witness_HaltedForGood_view :
    let s := { State.reset with run := .halted .stop }
    readView s { start := 0xC000, length := 1 } 0 = some (0x00, s) ∧
    writeView s { start := 0xC000, length := 1 } 0 0x00 = some s := ⟨rfl, rfl⟩

theorem test_witness_NopCompletes : State.reset.costsReal ∧ State.reset.run = .running ∧
    State.reset.peek State.reset.pc = 0x00#8 := ⟨reset_costsReal, rfl, rfl⟩

theorem test_witness_StepKeepsInvariant : State.reset.Inv ∧ step State.reset = .next (stepState State.reset) :=
  ⟨reset_inv, rfl⟩

theorem test_witness_PcAdvancesByLength : State.reset.run = .running ∧
    step State.reset = .next (stepState State.reset) := ⟨rfl, rfl⟩

theorem test_witness_StepKeepsRomAndBios :
    step { romState [0x36, 0x07] with h := 0x01 } = .next (stepState { romState [0x36, 0x07] with h := 0x01 }) := rfl

theorem test_witness_OverlayNeverReturns : State.reset.biosMapped = false ∧
    core.run 1 State.reset = .next (stepState State.reset) := ⟨rfl, rfl⟩

theorem test_witness_StepNeverWritesOamTail :
    step { romState [0x36, 0x99] with h := 0xFE, l := 0xA0 } =
      .next (stepState { romState [0x36, 0x99] with h := 0xFE, l := 0xA0 }) ∧ 0xA0 ≤ 0xA0 := ⟨rfl, by decide⟩

theorem test_witness_CyclesGrowByReportedCount : step State.reset = .next (stepState State.reset) := rfl

theorem test_witness_OnlyStopAndUnknownHalt_stop : (romState [0x10]).costsReal ∧ (romState [0x10]).run = .running ∧
    step (romState [0x10]) = .next (stepState (romState [0x10])) ∧
    (stepState (romState [0x10])).run = .halted .stop := ⟨reset_costsReal, rfl, rfl, rfl⟩

theorem test_witness_OnlyStopAndUnknownHalt_unknown : (romState [0xCB]).costsReal ∧ (romState [0xCB]).run = .running ∧
    step (romState [0xCB]) = .next (stepState (romState [0xCB])) ∧
    (stepState (romState [0xCB])).run = .halted (.fault (.unknownInstruction 0xCB 0)) :=
  ⟨reset_costsReal, rfl, rfl, rfl⟩

theorem test_witness_StepOutcomes_ok : (romState [0x04]).costsReal ∧ (romState [0x04]).run = .running ∧
    admitted ((romState [0x04]).peek (romState [0x04]).pc) = true ∧
    (romState [0x04]).peek (romState [0x04]).pc ≠ 0x10#8 := ⟨reset_costsReal, rfl, rfl, by decide⟩

theorem test_witness_StepOutcomes_stop : (romState [0x10]).costsReal ∧ (romState [0x10]).run = .running ∧
    (romState [0x10]).peek (romState [0x10]).pc = 0x10#8 := ⟨reset_costsReal, rfl, rfl⟩

theorem test_witness_StepOutcomes_unknown : (romState [0xFF]).costsReal ∧ (romState [0xFF]).run = .running ∧
    admitted ((romState [0xFF]).peek (romState [0xFF]).pc) = false := ⟨reset_costsReal, rfl, rfl⟩

theorem test_witness_TraceHookCall :
    let hooked := { romState [0x06, 0x05] with config := { Config.specDefault with traceHook := true } }
    hooked.run = .running ∧ hooked.config.traceHook = true ∧
    decode hooked.config.stopLength [hooked.peek hooked.pc, hooked.peek (hooked.pc + 1), hooked.peek (hooked.pc + 2)] =
      .ok (.ldBD8 0x05, [0x00]) := ⟨rfl, rfl, rfl⟩

theorem test_witness_TraceHookCall_none : (romState [0xCB]).run = .running ∧
    admitted ((romState [0xCB]).peek (romState [0xCB]).pc) = false ∧
    (romState [0xCB]).config.traceHook = false := ⟨rfl, rfl, rfl⟩

theorem test_witness_TraceHookCall_halted : { State.reset with run := .halted .stop }.run = .halted .stop := rfl

theorem test_witness_StepOutcomes_halted : { State.reset with run := .halted .stop }.costsReal ∧
    { State.reset with run := .halted .stop }.run = .halted .stop := ⟨reset_costsReal, rfl⟩

theorem test_witness_StopCompletes : (romState [0x10, 0x00]).run = .running ∧
    (romState [0x10, 0x00]).peek (romState [0x10, 0x00]).pc = 0x10#8 := ⟨rfl, rfl⟩

theorem test_witness_RunStopsAtHaltOrBound : (runCore 5 (romState [0x10])).steps = 0 + 1 ∧ (0 : Nat) + 1 < 5 ∧
    core.run 0 (romState [0x10]) = .next (romState [0x10]) ∧
    { State.reset with run := .halted .stop }.run = .halted .stop := ⟨rfl, by decide, rfl, rfl⟩

theorem test_witness_AddressDecodeTable_bounds :
    decodeAddr true 0x0000 = .cell .bios 0 ∧ decodeAddr true 0x00FF = .cell .bios 0xFF ∧
    decodeAddr false 0x00FF = .cell .rom 0xFF ∧ decodeAddr true 0x0100 = .cell .rom 0x100 ∧
    decodeAddr true 0x7FFF = .cell .rom 0x7FFF ∧ decodeAddr true 0x8000 = .cell .vram 0 ∧
    decodeAddr true 0x9FFF = .cell .vram 0x1FFF ∧ decodeAddr true 0xA000 = .cell .eram 0 ∧
    decodeAddr true 0xBFFF = .cell .eram 0x1FFF ∧ decodeAddr true 0xC000 = .cell .wram 0 ∧
    decodeAddr true 0xDFFF = .cell .wram 0x1FFF ∧ decodeAddr true 0xE000 = .cell .wram 0 ∧
    decodeAddr true 0xFDFF = .cell .wram 0x1DFF ∧ decodeAddr true 0xFE00 = .cell .oam 0 ∧
    decodeAddr true 0xFE9F = .cell .oam 0x9F ∧ decodeAddr true 0xFEA0 = .oamTail ∧
    decodeAddr true 0xFEFF = .oamTail ∧ decodeAddr true 0xFF00 = .io ∧ decodeAddr true 0xFF7F = .io ∧
    decodeAddr true 0xFF80 = .cell .hram 0 ∧ decodeAddr true 0xFFFF = .cell .hram 0x7F := by decide

theorem test_witness_WriteByteThenRead : State.reset.memoryWf ∧ writableAddr 0xFE9F ∧ ¬ writableAddr 0xFEA0 :=
  ⟨reset_memoryWf, .inl (by decide), by unfold writableAddr; decide⟩

theorem test_witness_IgnoredWritesAndZeroReads : (0x7FFF#16).toNat < 0x8000 ∧ 0xFEA0 ≤ (0xFEA0#16).toNat ∧
    (0xFF7F#16).toNat < 0xFF80 := by decide

theorem test_witness_EchoAliasesWorkRam : State.reset.memoryWf ∧ 0xC000 ≤ (0xC000#16).toNat ∧
    (0xC000#16).toNat < 0xDE00 ∧ 0xC000 ≤ (0xDDFF#16).toNat ∧ (0xDDFF#16).toNat < 0xDE00 :=
  ⟨reset_memoryWf, by decide⟩

theorem test_witness_WriteShortLittleEndian : State.reset.memoryWf ∧ writableAddr 0xFE9E ∧
    writableAddr (0xFE9E + 1) ∧ writableAddr 0xFFFE ∧ writableAddr (0xFFFE + 1) :=
  ⟨reset_memoryWf, .inl (by decide), .inl (by decide), .inr (by decide), .inr (by decide)⟩

theorem test_witness_WriteShortLittleEndian_edges : ¬ writableAddr 0x7FFF ∧ writableAddr (0x7FFF + 1) ∧
    writableAddr 0xFE9F ∧ ¬ writableAddr (0xFE9F + 1) ∧ ¬ writableAddr 0xFF7F ∧ writableAddr (0xFF7F + 1) ∧
    writableAddr 0xFFFF ∧ ¬ writableAddr (0xFFFF + 1) := by unfold writableAddr; decide

theorem test_witness_WriteShortLittleEndian_frame : decodeAddr false 0xFFFF ≠ .cell .rom 1 ∧
    decodeAddr false (0xFFFF + 1) ≠ .cell .rom 1 ∧ decodeAddr false 0x0001 ≠ decodeAddr false 0xFFFF ∧
    decodeAddr false 0x0001 ≠ decodeAddr false (0xFFFF + 1) := by decide

theorem test_witness_DisableBiosUncoversRom : State.reset.biosMapped = false ∧ (0x00FF#16).toNat < 0x100 ∧
    0x100 ≤ (0x0100#16).toNat := by decide

theorem test_witness_FetchRegionInsideOneArray_top : 0x10000 < (0xFFFF#16).toNat + 2 := by decide

theorem test_witness_FetchRegionInsideOneArray_split : 1 < 2 ∧ (0xDFFF#16).toNat + 2 ≤ 0x10000 ∧
    (∀ r i, decodeAddr State.reset.biosMapped 0xDFFF = .cell r i →
      decodeAddr State.reset.biosMapped (0xDFFF + BitVec.ofNat 16 1) ≠ .cell r (i + 1)) := by
  refine ⟨by decide, by decide, fun r i h g => ?_⟩
  have h1 : Target.cell .wram 0x1FFF = .cell r i := h
  have g1 : Target.cell .wram 0 = .cell r (i + 1) := g
  injection g1 with _ g2
  omega

theorem test_witness_FetchRegionInsideOneArray_inside : (0xE000, 0xFE00) ∈ arrayRanges State.reset.biosMapped ∧
    0xE000 ≤ (0xE000#16).toNat ∧ (0xE000#16).toNat < 0xFE00 ∧ (0xE000#16).toNat + 0x1E00 ≤ 0xFE00 ∧
    0 < 0x1E00 := by decide

theorem test_witness_FetchRegionInsideOneArray_over : (0x0000, 0x0100) ∈ arrayRanges mappedState.biosMapped ∧
    0x0000 ≤ (0x00FF#16).toNat ∧ (0x00FF#16).toNat < 0x0100 ∧ 0x0100 < (0x00FF#16).toNat + 2 := by decide

theorem test_witness_FetchRegionInsideOneArray_none : 0xFEA0 ≤ (0xFEA0#16).toNat ∧ (0xFEA0#16).toNat < 0xFF80 ∧
    0xFEA0 ≤ (0xFF7F#16).toNat ∧ (0xFF7F#16).toNat < 0xFF80 := by decide

theorem test_witness_FetchRegionInsideOneArray_view :
    let view : RegionView := { start := 0x7FFF, length := 1 }
    0 < view.length ∧ (view.start + BitVec.ofNat 16 0).toNat < 0x8000 := by decide

theorem test_witness_WideAddressFaults : 0x10000 ≤ 0x10000 ∧ 0xFFFF < 0x10000 := by decide

theorem test_witness_FlagOperations : State.reset.flagsWf ∧ State.reset.flag .h = false ∧ Flag.z ≠ Flag.h :=
  ⟨rfl, rfl, by decide⟩

theorem test_witness_IncRegister : 0 < 201 ∧ ({ State.reset with b := 0x37 }.b.toNat + 201) % 256 = 0 := by decide

theorem test_witness_IncMemory : { State.reset with h := 0xC1 }.memoryWf := reset_memoryWf

theorem test_witness_DecMemory : { State.reset with h := 0x80 }.memoryWf := reset_memoryWf

theorem test_witness_StoreAIndirect : { State.reset with b := 0xC0, d := 0xFE, e := 0xA0 }.memoryWf := reset_memoryWf

theorem test_witness_StoreImmediate : { State.reset with h := 0xFF, l := 0xFF }.memoryWf := reset_memoryWf

theorem test_witness_PairMinusSp : Reg16.bc ≠ Reg16.sp := by decide

theorem test_witness_CycleOverride :
    { Config.specDefault with cycles := [(0x04, 20)] }.cycles.lookup (Instr.opcode .incB) = some 20 ∧ 4 ≤ 20 ∧
    ∀ ignored, Instr.incB ≠ .stop ignored := ⟨by decide, by decide, fun _ h => nomatch h⟩

theorem test_witness_OnlyStoresWriteMemory : exec .nop State.reset = .next { State.reset with cycles := 4 } ∧
    Instr.nop ≠ .ldMemBcA ∧ Instr.nop ≠ .ldMemDeA ∧ (∀ v, Instr.nop ≠ .ldMemHlD8 v) ∧ Instr.nop ≠ .incMemHl ∧
    Instr.nop ≠ .decMemHl := ⟨rfl, by decide, by decide, nofun, by decide, by decide⟩

/-- LD (HL),0x04 in Work RAM, with HL at the byte after it. -/
def selfStore : State :=
  { State.reset with wram := [(0, 0x36), (1, 0x04)], pc := 0xC000, h := 0xC0, l := 0x02 }

theorem test_witness_StoreIsSeenByNextFetch : selfStore.memoryWf ∧ selfStore.costsReal ∧ selfStore.run = .running ∧
    decode selfStore.config.stopLength
      [selfStore.peek selfStore.pc, selfStore.peek (selfStore.pc + 1), selfStore.peek (selfStore.pc + 2)] =
        .ok (.ldMemHlD8 0x04, [selfStore.peek (selfStore.pc + 2)]) ∧
    selfStore.reg16 .hl = selfStore.pc + 2 ∧ writableAddr (selfStore.pc + 2) ∧ encode .incB = [0x04] ∧
    Instr.wellFormed selfStore.config.stopLength .incB = true ∧
    step selfStore = .next (stepState selfStore) :=
  ⟨fun r => by cases r <;> decide, reset_costsReal, rfl, rfl, by decide, .inl (by decide), by decide, rfl, rfl⟩

end Sys2Proof.Tests
end

section
/-! What the dispatch table, the costs and the fetch say about the opcode at `pc`, and from them what one step and
any number of steps can do. -/

namespace Sys2Proof.Machine

/-! The dispatch table and the costs. -/

/-- `STOP_LENGTH` does not decide which opcodes have a handler. -/
theorem table_build_isSome (n : StopLength) (op : Byte) : (table n op).build.isSome = admitted op := by
  unfold admitted table
  cases n <;> split <;> rfl

/-- A slot's handler builds instructions of the slot's own opcode. Two slots stand out: STOP's (the 16th arm), whose
handler depends on `n`, and the sentinel's (the last), which has none. -/
theorem opcode_of_table_build {n : StopLength} {op : Byte} {build : List Byte → Instr}
    (h : (table n op).build = some build) (ops : List Byte) : (build ops).opcode = op := by
  unfold table at h
  split at h
  case h_16 => cases n <;> cases h <;> rfl
  case h_49 => cases h
  all_goals cases h; rfl

/-- R94's default costs: at least 4 for every instruction but STOP. -/
theorem four_le_tStates (n : StopLength) {i : Instr} (hi : ∀ v, i ≠ .stop v) : 4 ≤ (table n i.opcode).tStates := by
  cases i
  case stop v => exact absurd rfl (hi v)
  all_goals exact Nat.le_of_ble_eq_true rfl

theorem instrCycles_eq_cyclesOf (cfg : Config) {i : Instr} (hi : ∀ v, i ≠ .stop v) :
    instrCycles cfg i = cyclesOf cfg i.opcode := by
  cases i
  case stop v => exact absurd rfl (hi v)
  all_goals rfl

/-- With real costs (R94) every instruction but STOP returns at least 4. -/
theorem four_le_instrCycles {s : State} (hc : s.costsReal) {i : Instr} (hi : ∀ v, i ≠ .stop v) :
    4 ≤ instrCycles s.config i := by
  rw [instrCycles_eq_cyclesOf _ hi, cyclesOf]
  split
  · rename_i t ht
    obtain ⟨l₁, l₂, hl, -⟩ := List.lookup_eq_some_iff.1 ht
    exact hc (i.opcode, t) (by simp [hl])
  · exact four_le_tStates _ hi

/-! The opcode fetch. -/

theorem decodeAddr_pcTrigger (s : State) : decodeAddr (pcTrigger s).biosMapped s.pc = decodeAddr s.biosMapped s.pc := by
  unfold pcTrigger
  split
  · rename_i h
    exact decodeAddr_high _ _ (by rw [h.2]; decide)
  · rfl

/-- The opcode a step fetches is the byte at `pc`: where the `pc` trigger ends the overlay, `pc` is above it. -/
theorem fetched_opcode (s : State) : (fetchByte (pcTrigger s)).1 = s.peek s.pc := by
  simp [fetchByte, readByte, State.peek, decodeAddr_pcTrigger]

/-! One step. -/

/-- Everything that one step can do (R100, R101, R201): a halted core stays as it is; an opcode without a handler
halts the core after its fetch; any other opcode's handler runs on what the fetch leaves, and `retire` ends it. -/
inductive StepEffect (s : State) : State → Prop where
  | halted (r : HaltReason) (hrun : s.run = .halted r) : StepEffect s s
  | unknown (u : State) (hrun : s.run = .running) (hfetch : fetchInstr s = .unknown (s.peek s.pc) s.pc u)
      (hop : admitted (s.peek s.pc) = false) (hpc : u.pc = s.pc + 1) (hu : FetchKeeps s u) :
      StepEffect s (raiseFault (.unknownInstruction (s.peek s.pc) s.pc) u)
  | retired (ops : List Byte) (i : Instr) (u v : State) (hrun : s.run = .running)
      (hfetch : fetchInstr s = .instr s.pc (s.peek s.pc) ops i u) (hop : i.opcode = s.peek s.pc)
      (hops : ops.length = (table s.config.stopLength (s.peek s.pc)).length - 1)
      (hpc : u.pc = s.pc + 1 + BitVec.ofNat 16 ops.length) (hu : FetchKeeps s u) (hv : HandlerKeeps u v) :
      StepEffect s (retire (instrCycles s.config i) v)

theorem stepEffect_of_step {s t : State} (h : step s = .next t) : StepEffect s t := by
  obtain ⟨r, hrun, hs⟩ | ⟨hrun, op, a0, u, hf, hs⟩ | ⟨hrun, a0, op, ops, i, u, hf, hs⟩ := step_cases s
  · cases hs.symm.trans h
    exact .halted r hrun
  · cases hs.symm.trans h
    obtain ⟨u', hf', hbuild, hpc, hu⟩ | ⟨ops', build, u', hf', -⟩ := fetchInstr_cases s
    · rw [fetched_opcode] at hf' hbuild
      cases hf.symm.trans hf'
      exact .unknown u hrun hf (by simp [← table_build_isSome s.config.stopLength, hbuild]) hpc hu
    · cases hf.symm.trans hf'
  · obtain ⟨u', hf', -⟩ | ⟨ops', build, u', hf', hbuild, hops, hpc, hu⟩ := fetchInstr_cases s
    · cases hf.symm.trans hf'
    · rw [fetched_opcode] at hf' hbuild hops
      cases hf.symm.trans hf'
      obtain ⟨v, hv, he⟩ := exec_cases (build ops) u
      rw [hu.config] at he
      cases (hs.trans he).symm.trans h
      exact .retired ops _ u v hrun hf (opcode_of_table_build hbuild ops) hops hpc hu hv

/-! The outcome of a step (R102). -/

theorem stepResult_of_halted {s : State} {r : HaltReason} (h : s.run = .halted r) : stepResult s = .halted r := by
  simp [stepResult, h]

theorem stepResult_of_unknown {s u : State} {op : Byte} {a0 : Word} (h : s.run = .running)
    (hf : fetchInstr s = .unknown op a0 u) : stepResult s = .error (.unknownInstruction op a0) := by
  simp [stepResult, h, hf]

theorem stepResult_of_instr {s u : State} {op : Byte} {a0 : Word} {ops : List Byte} {i : Instr}
    (h : s.run = .running) (hf : fetchInstr s = .instr a0 op ops i u) :
    stepResult s = if instrCycles s.config i = 0 then .stopped else .ok (instrCycles s.config i) := by
  simp [stepResult, h, hf]

/-! Any number of steps. -/

/-- What every step of a machine keeps, a run of any length keeps. -/
theorem run_keeps (M : Host.Core) {P : M.State → Prop} (hstep : ∀ s t, P s → M.step s = .next t → P t) (k : Nat)
    {s t : M.State} (hs : P s) (h : M.run k s = .next t) : P t := by
  induction k generalizing s with
  | zero => cases h; exact hs
  | succ k ih =>
    rw [Host.Core.run] at h
    split at h
    · exact ih (hstep _ _ hs ‹_›) h
    · cases h
    · cases h

end Sys2Proof.Machine
end

section
/-! The invariant, the overlay, `cycles` and the halt under a step. -/

namespace Sys2Proof.Machine

theorem FetchKeeps.flagsWf {s t : State} (h : FetchKeeps s t) (hs : s.flagsWf) : t.flagsWf := by
  rw [State.flagsWf, h.f]
  exact hs

theorem FetchKeeps.memoryWf {s t : State} (h : FetchKeeps s t) : s.memoryWf → t.memoryWf := keeps_of_array h.array

theorem haltWf_of_running {s : State} (h : s.run = .running) : s.haltWf := fun _ he => nomatch h.symm.trans he

/-- The end of an instruction can only halt with Stop. -/
theorem retire_haltWf {s : State} (n : Nat) (h : s.haltWf) : (retire n s).haltWf := by
  intro e he
  rw [retire_run] at he
  split at he
  · cases he
  · exact h e he

theorem raiseFault_haltWf (s : State) {op : Byte} (addr : Word) (h : admitted op = false) :
    (raiseFault (.unknownInstruction op addr) s).haltWf := by
  intro e he
  cases he
  exact ⟨op, addr, rfl, h⟩

theorem retire_memoryWf {s : State} (n : Nat) : s.memoryWf → (retire n s).memoryWf := keeps_of_array (by simp)

theorem raiseFault_memoryWf {s : State} (e : Fault) : s.memoryWf → (raiseFault e s).memoryWf :=
  keeps_of_array (by simp)

theorem step_keeps_inv {s t : State} (hs : s.Inv) (h : step s = .next t) : t.Inv := by
  obtain ⟨hm, hf, hh⟩ := hs
  cases stepEffect_of_step h with
  | halted => exact ⟨hm, hf, hh⟩
  | unknown u _ _ hop _ hu =>
    exact ⟨raiseFault_memoryWf _ (hu.memoryWf hm), hu.flagsWf hf, raiseFault_haltWf u _ hop⟩
  | retired ops i u v hrun _ _ _ _ hu hv =>
    have hvrun : v.run = .running := hv.run.trans (hu.run.trans hrun)
    refine ⟨retire_memoryWf _ (hv.memoryWf (hu.memoryWf hm)), ?_, retire_haltWf _ (haltWf_of_running hvrun)⟩
    simpa [State.flagsWf] using hv.flagsWf (hu.flagsWf hf)

/-- No step turns the overlay on. -/
theorem step_overlay {s t : State} (hs : s.biosMapped = false) (h : step s = .next t) : t.biosMapped = false := by
  rw [Bool.eq_false_iff] at hs ⊢
  intro ht
  refine hs ?_
  cases stepEffect_of_step h with
  | halted => exact ht
  | unknown u _ _ _ _ hu => exact hu.overlay ht
  | retired ops i u v _ _ _ _ _ hu hv => exact hu.overlay (hv.overlay (by simpa using ht))

/-- Settles O17, from `StepEffect`: the fetch and the handler keep the arrays and F, and either ending keeps the
halt's form. -/
theorem stepKeepsInvariant : Obligations.StepKeepsInvariant := fun _ _ => step_keeps_inv

/-- Settles O20, by induction on the number of steps. -/
theorem overlayNeverReturns : Obligations.OverlayNeverReturns := fun k _ _ hs h =>
  run_keeps core (P := fun s : State => s.biosMapped = false) (fun _ _ => step_overlay) k hs h

/-- Settles O22: only `retire` adds to `cycles`, and it adds the count that `stepResult` reports. -/
theorem cyclesGrowByReportedCount : Obligations.CyclesGrowByReportedCount := by
  intro s t h
  cases stepEffect_of_step h with
  | halted r hrun => rw [stepResult_of_halted hrun]; rfl
  | unknown u hrun hfetch _ _ hu => rw [stepResult_of_unknown hrun hfetch]; exact hu.cycles
  | retired ops i u v hrun hfetch _ _ _ hu hv =>
    rw [stepResult_of_instr hrun hfetch, retire_cycles, hv.cycles, hu.cycles]
    split_ifs with h0
    · rw [h0]
    · rfl

/-- Settles O23: with real costs, a count of 0 is STOP's alone. -/
theorem onlyStopAndUnknownHalt : Obligations.OnlyStopAndUnknownHalt := by
  intro s t r hcost hrun h ht
  cases stepEffect_of_step h with
  | halted r' hhalt => cases hrun.symm.trans hhalt
  | unknown u _ _ hop =>
    cases ht
    exact .inr ⟨rfl, hop⟩
  | retired ops i u v _ _ hop _ _ hu hv =>
    have hvrun : v.run = .running := hv.run.trans (hu.run.trans hrun)
    rw [retire_run, hvrun] at ht
    split at ht
    · rename_i h0
      cases ht
      have hstop : ∃ w, i = .stop w := by
        by_contra hne
        have := four_le_instrCycles hcost (not_exists.1 hne)
        omega
      obtain ⟨w, rfl⟩ := hstop
      exact .inl ⟨rfl, hop.symm⟩
    · cases ht

end Sys2Proof.Machine
end

section
/-! The register file: pair views, F and the flag operations. -/

namespace Sys2Proof.Machine

/-! F's low nibble. -/

/-- Clearing the low nibble, at any width, as arithmetic. -/
theorem clearLowNibble_toNat {w : Nat} (x : BitVec w) :
    (x &&& BitVec.allOnes w <<< 4).toNat = x.toNat / 16 * 16 := by
  have hx : x.toNat / 16 * 16 < 2 ^ w := by
    have := x.isLt
    omega
  rw [← BitVec.shiftLeft_ushiftRight, BitVec.toNat_shiftLeft, BitVec.toNat_ushiftRight, Nat.shiftRight_eq_div_pow,
    Nat.shiftLeft_eq, Nat.mod_eq_of_lt hx]

theorem and_F0_toNat (x : Byte) : (x &&& 0xF0#8).toNat = x.toNat / 16 * 16 := clearLowNibble_toNat x

theorem and_FFF0_toNat (v : Word) : (v &&& 0xFFF0#16).toNat = v.toNat / 16 * 16 := clearLowNibble_toNat v

theorem and_F0_and_F0 (x : Byte) : x &&& 0xF0#8 &&& 0xF0#8 = x &&& 0xF0#8 := by
  rw [BitVec.and_assoc, BitVec.and_self]

@[simp] theorem writeF_readF (s : State) (x : Byte) : (s.writeF x).readF = x &&& 0xF0#8 := and_F0_and_F0 x

theorem readF_lowNibble (s : State) : s.readF &&& 0x0F#8 = 0 := writeF_flagsWf s s.f

/-! The writes' frames. -/

theorem setReg8_sameControl (s : State) (r : Reg8) (v : Byte) : SameControl s (s.setReg8 r v) := by
  simp [SameControl]

theorem setReg8_sameMemory (s : State) (r : Reg8) (v : Byte) : SameMemory s (s.setReg8 r v) := fun _ => by simp

theorem setReg8_sameReg8Outside (s : State) (r : Reg8) (v : Byte) : SameReg8Outside [r] s (s.setReg8 r v) := by
  intro r' hr'
  rw [setReg8_reg8, if_neg (by simpa using hr')]

theorem setReg16_sameControl (s : State) (rr : Reg16) (v : Word) : SameControl s (s.setReg16 rr v) := by
  simp [SameControl]

theorem setReg16_sameMemory (s : State) (rr : Reg16) (v : Word) : SameMemory s (s.setReg16 rr v) := fun _ => by simp

theorem setReg8_setReg8_sameReg8Outside (s : State) (r r' : Reg8) (v v' : Byte) :
    SameReg8Outside [r, r'] s ((s.setReg8 r v).setReg8 r' v') := by
  intro q hq
  rw [List.mem_pair, not_or] at hq
  rw [setReg8_reg8, if_neg hq.2, setReg8_reg8, if_neg hq.1]

/-- A write of a pair is a write of each half; a write of SP is a write of neither. -/
theorem setReg16_sameReg8Outside (s : State) (rr : Reg16) (v : Word) :
    SameReg8Outside (pairHalves rr) s (s.setReg16 rr v) := by
  cases rr with
  | bc => exact setReg8_setReg8_sameReg8Outside s .b .c (hi8 v) (lo8 v)
  | de => exact setReg8_setReg8_sameReg8Outside s .d .e (hi8 v) (lo8 v)
  | hl => exact setReg8_setReg8_sameReg8Outside s .h .l (hi8 v) (lo8 v)
  | sp => exact fun r _ => by cases r <;> rfl

theorem setReg16_sp (s : State) {rr : Reg16} (v : Word) (h : rr ≠ .sp) : (s.setReg16 rr v).sp = s.sp := by
  cases rr
  case sp => exact absurd rfl h
  all_goals rfl

theorem writeF_sameReg8 (s : State) (x : Byte) : SameReg8Outside [] s (s.writeF x) := fun r _ => writeF_reg8 s x r

theorem writeF_sameOutsideRegs (s : State) (x : Byte) : SameOutsideRegs s (s.writeF x) :=
  ⟨rfl, writeF_array s x, rfl, rfl, rfl, rfl, rfl⟩

/-- A write of AF is a write of A and then one of F. -/
theorem writeAF_eq (s : State) (v : Word) : s.writeAF v = (s.setReg8 .a (hi8 v)).writeF (lo8 v) := rfl

theorem writeAF_sameReg8Outside (s : State) (v : Word) : SameReg8Outside [.a] s (s.writeAF v) := by
  intro r hr
  rw [writeAF_eq, writeF_reg8]
  exact setReg8_sameReg8Outside s .a _ r hr

theorem writeAF_sameOutsideRegs (s : State) (v : Word) : SameOutsideRegs s (s.writeAF v) :=
  ⟨rfl, fun r => by simp [writeAF_eq], rfl, rfl, rfl, rfl, rfl⟩

/-- AF reads back with F's low nibble cleared. -/
theorem writeAF_readAF (s : State) (v : Word) : (s.writeAF v).readAF = v &&& 0xFFF0#16 := by
  apply BitVec.eq_of_toNat_eq
  rw [and_FFF0_toNat, State.readAF, writeAF_eq, writeF_readF, concat_toNat, and_F0_toNat, lo8_toNat, writeF_a]
  change (hi8 v).toNat * 256 + _ = _
  rw [hi8_toNat]
  omega

/-! The flag operations. -/

/-- F meets the invariant exactly when masking it changes nothing. -/
theorem flagsWf_iff (s : State) : s.flagsWf ↔ s.f &&& 0xF0#8 = s.f := by
  have hsplit : (s.f &&& 0xF0#8) ||| (s.f &&& 0x0F#8) = s.f := by
    rw [← BitVec.and_or_distrib_left]
    exact BitVec.and_allOnes
  constructor
  · intro h
    rw [State.flagsWf] at h
    simpa [h] using hsplit
  · intro h
    rw [State.flagsWf, ← h, BitVec.and_assoc]
    simp

/-- `set` bit by bit: the flag's own bit takes the value, and every other bit of F is kept under the mask. -/
theorem setFlag_getLsbD (s : State) (fl : Flag) (on : Bool) (i : Nat) :
    (s.setFlag fl on).f.getLsbD i = if i = flagBit fl then on else (s.f &&& 0xF0#8).getLsbD i := by
  split
  · rename_i h
    rw [h]
    exact setFlag_flag_self s fl on
  · rename_i h
    have hm : (flagMask fl).getLsbD i = false := by simp [flagMask, Ne.symm h]
    cases on
    · by_cases hi : i < 8
      · rw [BitVec.getLsbD_eq_getElem hi] at hm
        simp [State.setFlag, hm, hi]
      · simp [BitVec.getLsbD_of_ge _ i (Nat.le_of_not_lt hi)]
    · simp [State.setFlag, hm]

/-- Enabling a clear flag and disabling it again restores F. -/
theorem disableFlag_enableFlag_f {s : State} {fl : Flag} (hwf : s.flagsWf) (hfl : s.flag fl = false) :
    ((s.enableFlag fl).disableFlag fl).f = s.f := by
  have hmask := (flagsWf_iff _).1 hwf
  have hmask' : (s.enableFlag fl).f &&& 0xF0#8 = (s.enableFlag fl).f := (flagsWf_iff _).1 (writeF_flagsWf _ _)
  apply BitVec.eq_of_getLsbD_eq
  intro i _
  rw [State.disableFlag, setFlag_getLsbD, hmask', State.enableFlag, setFlag_getLsbD, hmask]
  split
  · rename_i h
    rw [h]
    exact hfl.symm
  · rfl

/-- Settles O37, from the arithmetic of `concat`, `hi8` and `lo8` and the frames of the register writes. -/
theorem pairsAreViews : Obligations.PairsAreViews := by
  intro s v x
  refine ⟨⟨concat_toNat .., concat_toNat .., concat_toNat .., concat_toNat ..⟩, fun rr => ?_,
    ⟨hi8_toNat v, lo8_toNat v, hi8_toNat v, lo8_toNat v, hi8_toNat v, lo8_toNat v⟩, ?_, fun r => ?_⟩
  · exact ⟨setReg16_reg16_self s rr v, setReg16_sameReg8Outside s rr v, setReg16_f s rr v, setReg16_sp s v,
      setReg16_sameMemory s rr v, setReg16_sameControl s rr v⟩
  · have hF : (s.writeAF v).readF.toNat = v.toNat % 256 / 16 * 16 := by
      rw [writeAF_eq, writeF_readF, and_F0_toNat, lo8_toNat]
    exact ⟨hi8_toNat v, hF, writeAF_sameOutsideRegs s v, writeAF_sameReg8Outside s v⟩
  · exact ⟨setReg8_reg8_self s r x, setReg8_sameReg8Outside s r x, setReg8_f s r x, setReg8_sp s r x,
      setReg8_sameMemory s r x, setReg8_sameControl s r x⟩

/-- Settles O38: each of the writes ends in `writeF`, which masks the low nibble. -/
theorem flagByteIsMasked : Obligations.FlagByteIsMasked := fun s v x _ _ =>
  ⟨writeAF_readAF s v, writeF_readF s x, readF_lowNibble s, writeF_flagsWf s x, writeF_flagsWf _ _, writeF_flagsWf _ _,
    writeF_sameReg8 s x, writeF_sameOutsideRegs s x, writeAF_sameReg8Outside s v, writeAF_sameOutsideRegs s v⟩

/-- Settles O39, from what `set` does to each bit of F; `set` is a write of F, so the frame is `writeF`'s. -/
theorem flagOperations : Obligations.FlagOperations := fun s fl on =>
  ⟨setFlag_flag_self s fl on, fun _ => setFlag_flag_other s on, writeF_flagsWf _ _, rfl, rfl, ⟨rfl, rfl, rfl, rfl⟩,
    disableFlag_enableFlag_f, writeF_sameReg8 s _, writeF_sameOutsideRegs s _⟩

end Sys2Proof.Machine
end

section
/-! The machine right after construction. -/

namespace Sys2Proof.Machine

theorem reset_array (r : Region) : State.reset.array r = [] := by
  cases r <;> rfl

theorem reset_read (r : Region) (i : Nat) : Memory.read (State.reset.array r) i = 0 := by
  rw [reset_array]
  rfl

theorem reset_peek (addr : Word) : State.reset.peek addr = 0 := by
  unfold State.peek
  split
  · exact reset_read ..
  · rfl
  · rfl

theorem reset_reg8 (r : Reg8) : State.reset.reg8 r = 0 := by
  cases r <;> rfl

/-- Settles O1, field by field. -/
theorem resetLeavesStatedValues : Obligations.ResetLeavesStatedValues :=
  ⟨reset_reg8, rfl, rfl, rfl, rfl, rfl, rfl, reset_read, reset_peek⟩

/-- Settles O2: the arrays are empty, F is zero and the core runs. -/
theorem invariantHoldsAtReset : Obligations.InvariantHoldsAtReset :=
  ⟨reset_memoryWf, rfl, haltWf_of_running rfl⟩

end Sys2Proof.Machine
end

section
/-! The address decoder row by row, and the byte reads and writes as functions of what an address decodes to. -/

namespace Sys2Proof.Machine

/-! The rows of the decoding table (20_memory.md R51). -/

theorem decodeAddr_low (mapped : Bool) {a : Word} (h : a.toNat ≤ 0x00FF) :
    decodeAddr mapped a = if mapped then .cell .bios a.toNat else .cell .rom a.toNat := by
  rw [decodeAddr_arith, if_pos (by omega)]

theorem decodeAddr_rom (mapped : Bool) {a : Word} (h : 0x0100 ≤ a.toNat) (h' : a.toNat ≤ 0x7FFF) :
    decodeAddr mapped a = .cell .rom a.toNat := by
  rw [decodeAddr_arith, if_neg (by omega), if_pos (by omega)]

theorem decodeAddr_vram (mapped : Bool) {a : Word} (h : 0x8000 ≤ a.toNat) (h' : a.toNat ≤ 0x9FFF) :
    decodeAddr mapped a = .cell .vram (a.toNat - 0x8000) := by
  rw [decodeAddr_arith]
  iterate 2 rw [if_neg (by omega)]
  rw [if_pos (by omega), show a.toNat % 8192 = a.toNat - 0x8000 by omega]

theorem decodeAddr_eram (mapped : Bool) {a : Word} (h : 0xA000 ≤ a.toNat) (h' : a.toNat ≤ 0xBFFF) :
    decodeAddr mapped a = .cell .eram (a.toNat - 0xA000) := by
  rw [decodeAddr_arith]
  iterate 3 rw [if_neg (by omega)]
  rw [if_pos (by omega), show a.toNat % 8192 = a.toNat - 0xA000 by omega]

theorem decodeAddr_wram (mapped : Bool) {a : Word} (h : 0xC000 ≤ a.toNat) (h' : a.toNat ≤ 0xDFFF) :
    decodeAddr mapped a = .cell .wram (a.toNat - 0xC000) := by
  rw [decodeAddr_arith]
  iterate 4 rw [if_neg (by omega)]
  rw [if_pos (by omega), show a.toNat % 8192 = a.toNat - 0xC000 by omega]

theorem decodeAddr_echo (mapped : Bool) {a : Word} (h : 0xE000 ≤ a.toNat) (h' : a.toNat ≤ 0xFDFF) :
    decodeAddr mapped a = .cell .wram (a.toNat - 0xE000) := by
  rw [decodeAddr_arith]
  iterate 4 rw [if_neg (by omega)]
  rw [if_pos (by omega), show a.toNat % 8192 = a.toNat - 0xE000 by omega]

theorem decodeAddr_oam (mapped : Bool) {a : Word} (h : 0xFE00 ≤ a.toNat) (h' : a.toNat ≤ 0xFE9F) :
    decodeAddr mapped a = .cell .oam (a.toNat - 0xFE00) := by
  rw [decodeAddr_arith]
  iterate 5 rw [if_neg (by omega)]
  rw [if_pos (by omega), show a.toNat % 256 = a.toNat - 0xFE00 by omega]

theorem decodeAddr_oamTail (mapped : Bool) {a : Word} (h : 0xFEA0 ≤ a.toNat) (h' : a.toNat ≤ 0xFEFF) :
    decodeAddr mapped a = .oamTail := by
  rw [decodeAddr_arith]
  iterate 6 rw [if_neg (by omega)]
  rw [if_pos (by omega)]

theorem decodeAddr_io (mapped : Bool) {a : Word} (h : 0xFF00 ≤ a.toNat) (h' : a.toNat ≤ 0xFF7F) :
    decodeAddr mapped a = .io := by
  rw [decodeAddr_arith]
  iterate 7 rw [if_neg (by omega)]
  rw [if_pos (by omega)]

theorem decodeAddr_hram (mapped : Bool) {a : Word} (h : 0xFF80 ≤ a.toNat) :
    decodeAddr mapped a = .cell .hram (a.toNat - 0xFF80) := by
  have := a.isLt
  rw [decodeAddr_arith]
  iterate 8 rw [if_neg (by omega)]
  rw [show a.toNat % 128 = a.toNat - 0xFF80 by omega]

/-- The two ranges that no array backs. -/
theorem decodeAddr_ne_cell (mapped : Bool) {a : Word} (h : 0xFEA0 ≤ a.toNat) (h' : a.toNat < 0xFF80) (r : Region)
    (i : Nat) : decodeAddr mapped a ≠ .cell r i := by
  rcases Nat.lt_or_ge a.toNat 0xFF00 with hlt | hge
  · simp [decodeAddr_oamTail mapped h (by omega : a.toNat ≤ 0xFEFF)]
  · simp [decodeAddr_io mapped hge (by omega : a.toNat ≤ 0xFF7F)]

/-- The writable addresses are those that decode to a cell of a writable array. -/
theorem writableAddr_iff (mapped : Bool) (a : Word) :
    writableAddr a ↔ ∃ r i, decodeAddr mapped a = .cell r i ∧ regionWritable r = true := by
  rw [decodeAddr_arith, writableAddr]
  split_ifs <;> simp [regionWritable] <;> omega

/-- The array sizes and range bounds are multiples of 128, so an index keeps the address modulo 128. -/
theorem decodeAddr_index_mod {mapped : Bool} {a : Word} {r : Region} {i : Nat} (h : decodeAddr mapped a = .cell r i) :
    i % 128 = a.toNat % 128 := by
  rw [decodeAddr_arith] at h
  split_ifs at h
  all_goals cases h; omega

/-- Neighbouring addresses, the wrap included, never name the same cell. -/
theorem decodeAddr_succ_ne {mapped : Bool} {a : Word} {r : Region} {i : Nat} (h : decodeAddr mapped a = .cell r i) :
    decodeAddr mapped (a + 1) ≠ .cell r i := by
  intro h'
  have hmod := decodeAddr_index_mod h
  have hmod' := decodeAddr_index_mod h'
  rw [BitVec.toNat_add] at hmod'
  have hone : (1 : Word).toNat = 1 := rfl
  omega

/-- Settles O27: the ten rows. -/
theorem addressDecodeTable : Obligations.AddressDecodeTable := fun mapped _ =>
  ⟨decodeAddr_low mapped, decodeAddr_rom mapped, decodeAddr_vram mapped, decodeAddr_eram mapped, decodeAddr_wram mapped,
    decodeAddr_echo mapped, decodeAddr_oam mapped, decodeAddr_oamTail mapped, decodeAddr_io mapped,
    decodeAddr_hram mapped⟩

/-! A byte read and a byte write depend on what the address decodes to, not on the address. -/

theorem peek_of_decodeAddr_eq {s : State} {a b : Word}
    (h : decodeAddr s.biosMapped a = decodeAddr s.biosMapped b) : s.peek a = s.peek b := by
  unfold State.peek
  rw [h]

theorem writeByte_of_decodeAddr_eq {s : State} {a b : Word} (v : Byte)
    (h : decodeAddr s.biosMapped a = decodeAddr s.biosMapped b) : writeByte s a v = writeByte s b v := by
  unfold writeByte
  rw [h]

theorem peek_of_cell {s : State} {a : Word} {r : Region} {i : Nat} (h : decodeAddr s.biosMapped a = .cell r i) :
    s.peek a = Memory.read (s.array r) i := by
  simp [State.peek, h]

/-- No array backs the address, and it reads as 0x00 (R58, R59). -/
theorem peek_of_ne_cell {s : State} {a : Word} (h : ∀ r i, decodeAddr s.biosMapped a ≠ .cell r i) : s.peek a = 0 := by
  unfold State.peek
  split
  · rename_i r i hd
    exact absurd hd (h r i)
  · rfl
  · rfl

/-! What a byte write does (R63). -/

theorem writeByte_of_not_writable {s : State} {addr : Word} (v : Byte) (h : ¬ writableAddr addr) :
    writeByte s addr v = s := by
  rcases writeByte_cases s addr v with ⟨r, i, hd, hw, -⟩ | ⟨-, he⟩
  · exact absurd ((writableAddr_iff ..).2 ⟨r, i, hd, hw⟩) h
  · exact he

/-- Every cell but the one the address names keeps its byte. -/
theorem read_writeByte_other {s : State} {addr : Word} {r : Region} {i : Nat} (v : Byte)
    (h : decodeAddr s.biosMapped addr ≠ .cell r i) :
    Memory.read ((writeByte s addr v).array r) i = Memory.read (s.array r) i := by
  rcases writeByte_cases s addr v with ⟨r', j, hd, -, he⟩ | ⟨-, he⟩
  · rw [he, setArray_array]
    split
    · rename_i hr
      subst hr
      exact read_write_other v _ fun hij => h (hij ▸ hd)
    · rfl
  · rw [he]

theorem peek_writeByte_self {s : State} {addr : Word} (v : Byte) (hm : s.memoryWf) (h : writableAddr addr) :
    (writeByte s addr v).peek addr = v := by
  obtain ⟨r, i, hd, hw⟩ := (writableAddr_iff s.biosMapped addr).1 h
  rw [peek_of_cell (by rwa [writeByte_biosMapped])]
  simp [writeByte, hd, hw, read_write_wf v (hm r)]

theorem peek_writeByte_other {s : State} {addr b : Word} (v : Byte)
    (h : decodeAddr s.biosMapped b ≠ decodeAddr s.biosMapped addr) : (writeByte s addr v).peek b = s.peek b := by
  unfold State.peek
  rw [writeByte_biosMapped]
  split
  · rename_i r i hd
    exact read_writeByte_other v fun h' => h (hd.trans h'.symm)
  · rfl
  · rfl

theorem withOverlay_self (s : State) : s.withOverlay s.biosMapped = s := rfl

theorem writeByte_storedAt {s : State} (addr : Word) (v : Byte) (hm : s.memoryWf) :
    StoredAt addr v s (writeByte s addr v) := by
  unfold StoredAt
  rw [writeByte_biosMapped, withOverlay_self]
  exact ⟨peek_writeByte_self v hm, fun h r => by rw [writeByte_of_not_writable v h],
    fun r i => read_writeByte_other v, fun b => peek_writeByte_other v⟩

theorem writeByte_sameRegisters (s : State) (addr : Word) (v : Byte) : SameRegisters s (writeByte s addr v) :=
  ⟨fun r _ => writeByte_reg8 s addr v r, writeByte_sp s addr v, writeByte_f s addr v⟩

theorem writeByte_sameControl (s : State) (addr : Word) (v : Byte) : SameControl s (writeByte s addr v) := by
  simp [SameControl]

/-- Settles O28: `writeByte` changes the cell that the address names, where that is writable, and nothing else. -/
theorem writeByteThenRead : Obligations.WriteByteThenRead := fun s addr v hm =>
  ⟨writeByte_storedAt addr v hm, writeByte_memoryWf addr v hm, writeByte_sameRegisters s addr v,
    writeByte_sameControl s addr v⟩

/-- Settles O29: none of these addresses is writable, and no array backs the second range. -/
theorem ignoredWritesAndZeroReads : Obligations.IgnoredWritesAndZeroReads := by
  intro s addr v
  refine ⟨fun h => writeByte_of_not_writable v ?_, fun h h' => ⟨writeByte_of_not_writable v ?_, ?_⟩⟩
  · unfold writableAddr
    omega
  · unfold writableAddr
    omega
  · exact peek_of_ne_cell (decodeAddr_ne_cell s.biosMapped h h')

/-- An address of the echo names the cell that the address 0x2000 below it names (R57). -/
theorem decodeAddr_echo_eq (mapped : Bool) {a b : Word} (hb : b.toNat = a.toNat + 0x2000) (h : 0xC000 ≤ a.toNat)
    (h' : a.toNat < 0xDE00) : decodeAddr mapped b = decodeAddr mapped a := by
  rw [decodeAddr_wram mapped h (by omega), decodeAddr_echo mapped (by omega) (by omega), hb,
    show a.toNat + 0x2000 - 0xE000 = a.toNat - 0xC000 by omega]

/-- Settles O30: both addresses decode to the same cell of Work RAM. -/
theorem echoAliasesWorkRam : Obligations.EchoAliasesWorkRam := by
  intro s addr v hm h h'
  have hself : (writeByte s addr v).peek addr = v := peek_writeByte_self v hm (.inl ⟨by omega, by omega⟩)
  have halias (mapped : Bool) : decodeAddr mapped (addr + 0x2000) = decodeAddr mapped addr :=
    decodeAddr_echo_eq mapped (by bv_omega) h h'
  have hsame := writeByte_of_decodeAddr_eq v (halias s.biosMapped)
  exact ⟨(peek_of_decodeAddr_eq (halias _)).trans hself, by rw [hsame, hself], hsame⟩

end Sys2Proof.Machine
end

section
/-! 16-bit accesses, the overlay under reads, views and host accesses. -/

namespace Sys2Proof.Machine

/-! Reads and the overlay (20_memory.md R61, R62). -/

theorem readTrigger_eq (addr : Word) (s : State) : readTrigger addr s = s.withOverlay (overlayAfterRead s addr) := by
  have hflag : (readTrigger addr s).biosMapped = overlayAfterRead s addr := readTrigger_biosMapped addr s
  rw [← hflag]
  unfold readTrigger
  split <;> rfl

/-- A read keeps the overlay, or its address is the trigger's. -/
theorem overlayAfterRead_eq_or (s : State) (addr : Word) :
    overlayAfterRead s addr = s.biosMapped ∨ addr = 0x0100#16 := by
  by_cases h : addr = 0x0100#16
  · exact .inr h
  · exact .inl (by simp [overlayAfterRead, h])

/-- From 0x0100 on, an address reads the same under either value of the overlay flag. -/
theorem peek_withOverlay (s : State) (mapped : Bool) {b : Word} (h : 0x0100 ≤ b.toNat) :
    (s.withOverlay mapped).peek b = s.peek b := by
  have harray (r : Region) : (s.withOverlay mapped).array r = s.array r := by cases r <;> rfl
  unfold State.peek
  rw [decodeAddr_high (s.withOverlay mapped).biosMapped s.biosMapped h]
  split <;> simp [harray]

/-- What a read leaves reads as before at every address that is not below 0x0100 after a read of 0x0100. -/
theorem peek_after_read (s : State) {addr b : Word} (h : addr = 0x0100#16 → 0x0100 ≤ b.toNat) :
    (s.withOverlay (overlayAfterRead s addr)).peek b = s.peek b := by
  rcases overlayAfterRead_eq_or s addr with he | he
  · rw [he, withOverlay_self]
  · exact peek_withOverlay s _ (h he)

theorem readByte_eq (s : State) (addr : Word) :
    readByte s addr = (s.peek addr, s.withOverlay (overlayAfterRead s addr)) := by
  rw [readByte, readTrigger_eq]

/-- Settles O31: where the first read ends the overlay, its address is above the overlay's. -/
theorem readByteAndTrigger : Obligations.ReadByteAndTrigger := by
  intro s addr
  rw [readByte_eq]
  refine ⟨rfl, rfl, ?_⟩
  rw [readByte_eq, peek_after_read s (by rintro rfl; decide)]
  simp [overlayAfterRead, State.withOverlay]

/-- The byte read second is the one the state before the first read holds. -/
theorem readShort_value (s : State) (addr : Word) : (readShort s addr).1 = concat (s.peek (addr + 1)) (s.peek addr) := by
  have hnext : (s.withOverlay (overlayAfterRead s addr)).peek (addr + 1) = s.peek (addr + 1) :=
    peek_after_read s (by rintro rfl; decide)
  simp only [readShort, readByte_eq, hnext]

theorem readShort_state (s : State) (addr : Word) :
    (readShort s addr).2 = s.withOverlay (overlayAfterRead s addr && overlayAfterRead s (addr + 1)) := by
  simp only [readShort, readByte_eq]
  cases hs : s.biosMapped <;> simp [overlayAfterRead, State.withOverlay, hs]

/-- Settles O32: the second read is not affected by what the first one does to the overlay. -/
theorem readShortLittleEndian : Obligations.ReadShortLittleEndian := by
  intro s addr
  refine ⟨?_, readShort_state s addr⟩
  rw [readShort_value, concat_toNat]
  omega

/-! 16-bit writes (R65). -/

section
variable {s : State} {addr : Word} (v : Word)

theorem writeShort_of_low_not_writable (h : ¬ writableAddr addr) :
    writeShort s addr v = writeByte s (addr + 1) (hi8 v) := by
  rw [writeShort, writeByte_of_not_writable _ h]

theorem writeShort_of_high_not_writable (h : ¬ writableAddr (addr + 1)) :
    writeShort s addr v = writeByte s addr (lo8 v) := by
  rw [writeShort, writeByte_of_not_writable _ h]

/-- The second byte lands in another cell, so the first one stays. -/
theorem peek_writeShort_low (hm : s.memoryWf) (h : writableAddr addr) : (writeShort s addr v).peek addr = lo8 v := by
  have hne : decodeAddr s.biosMapped addr ≠ decodeAddr s.biosMapped (addr + 1) := by
    obtain ⟨r, i, hd, -⟩ := (writableAddr_iff s.biosMapped addr).1 h
    rw [hd]
    exact (decodeAddr_succ_ne hd).symm
  rw [writeShort, peek_writeByte_other _ (by rwa [writeByte_biosMapped]), peek_writeByte_self _ hm h]

theorem peek_writeShort_high (hm : s.memoryWf) (h : writableAddr (addr + 1)) :
    (writeShort s addr v).peek (addr + 1) = hi8 v :=
  peek_writeByte_self _ (writeByte_memoryWf _ _ hm) h

theorem read_writeShort_other {r : Region} {i : Nat} (h : decodeAddr s.biosMapped addr ≠ .cell r i)
    (h' : decodeAddr s.biosMapped (addr + 1) ≠ .cell r i) :
    Memory.read ((writeShort s addr v).array r) i = Memory.read (s.array r) i := by
  rw [writeShort, read_writeByte_other _ (by rwa [writeByte_biosMapped]), read_writeByte_other _ h]

theorem peek_writeShort_other {b : Word} (h : decodeAddr s.biosMapped b ≠ decodeAddr s.biosMapped addr)
    (h' : decodeAddr s.biosMapped b ≠ decodeAddr s.biosMapped (addr + 1)) :
    (writeShort s addr v).peek b = s.peek b := by
  rw [writeShort, peek_writeByte_other _ (by rwa [writeByte_biosMapped]), peek_writeByte_other _ h]

theorem readShort_writeShort (hm : s.memoryWf) (h : writableAddr addr) (h' : writableAddr (addr + 1)) :
    (readShort (writeShort s addr v) addr).1 = v := by
  rw [readShort_value, peek_writeShort_low v hm h, peek_writeShort_high v hm h', concat_hi8_lo8]

end

/-- Settles O33: each clause is a rule of the two byte writes, taken one after the other. -/
theorem writeShortLittleEndian : Obligations.WriteShortLittleEndian := by
  intro s addr v hm
  refine ⟨fun h => ?_, fun h => ?_, writeShort_of_low_not_writable v, writeShort_of_high_not_writable v,
    fun _ _ => read_writeShort_other v, fun _ => peek_writeShort_other v, readShort_writeShort v hm,
    writeByte_memoryWf _ _ (writeByte_memoryWf _ _ hm), ?_, ?_⟩
  · rw [peek_writeShort_low v hm h, lo8_toNat]
  · rw [peek_writeShort_high v hm h, hi8_toNat]
  · exact ⟨fun r _ => by simp [writeShort], by simp [writeShort], by simp [writeShort]⟩
  · simp [SameControl, writeShort]

/-! `fetch_region` (R66). -/

theorem spanContiguous_iff (mapped : Bool) (addr : Word) (r : Region) (i n : Nat) :
    spanContiguous mapped addr r i n = true ↔
      ∀ k, k < n → decodeAddr mapped (addr + BitVec.ofNat 16 k) = .cell r (i + k) := by
  induction n with
  | zero => simp [spanContiguous]
  | succ n ih => rw [spanContiguous, Bool.and_eq_true, ih, beq_iff_eq, Nat.forall_lt_succ_right]

theorem spanOk_iff (mapped : Bool) (addr : Word) (n : Nat) :
    spanOk mapped addr n = true ↔ addr.toNat + n ≤ 0x10000 ∧ ∃ r i, decodeAddr mapped addr = .cell r i ∧
      ∀ k, k < n → decodeAddr mapped (addr + BitVec.ofNat 16 k) = .cell r (i + k) := by
  unfold spanOk
  split <;> rename_i hd <;> simp [hd, spanContiguous_iff]

theorem fetchRegion_of_spanOk {s : State} {addr : Word} {n : Nat} (h : spanOk s.biosMapped addr n = true) :
    fetchRegion s addr n = .ok { start := addr, length := n } := by
  rw [fetchRegion, if_pos h]

theorem fetchRegion_of_not_spanOk {s : State} {addr : Word} {n : Nat} (h : ¬ spanOk s.biosMapped addr n = true) :
    fetchRegion s addr n = .error (.invalidRegionSpan addr n) := by
  rw [fetchRegion, if_neg h]

/-- The addresses from `lo` to `hi` name the cells of `r` from `base` on, in order, and the address past them, which
wraps, does not name the next cell. -/
structure RangeNames (mapped : Bool) (lo hi : Nat) (r : Region) (base : Nat) : Prop where
  cell : ∀ a : Word, lo ≤ a.toNat → a.toNat < hi → decodeAddr mapped a = .cell r (base + (a.toNat - lo))
  next : decodeAddr mapped (BitVec.ofNat 16 hi) ≠ .cell r (base + (hi - lo))
  le : hi ≤ 0x10000

theorem rangeNames_rom (mapped : Bool) : RangeNames mapped 0x0100 0x8000 .rom 0x0100 where
  cell a h h' := by rw [decodeAddr_rom mapped h (by omega), Nat.add_sub_cancel' h]
  next := by cases mapped <;> decide
  le := by decide

theorem rangeNames_rom_uncovered : RangeNames false 0x0000 0x8000 .rom 0 where
  cell a _ h' := by
    rw [Nat.zero_add, Nat.sub_zero]
    rcases Nat.lt_or_ge a.toNat 0x0100 with h | h
    · exact decodeAddr_low false (by omega)
    · exact decodeAddr_rom false h (by omega)
  next := by decide
  le := by decide

theorem rangeNames_bios : RangeNames true 0x0000 0x0100 .bios 0 where
  cell a _ h' := by rw [decodeAddr_low true (by omega), Nat.zero_add, Nat.sub_zero, if_pos rfl]
  next := by decide
  le := by decide

theorem rangeNames_vram (mapped : Bool) : RangeNames mapped 0x8000 0xA000 .vram 0 where
  cell a h h' := by rw [decodeAddr_vram mapped h (by omega), Nat.zero_add]
  next := by cases mapped <;> decide
  le := by decide

theorem rangeNames_eram (mapped : Bool) : RangeNames mapped 0xA000 0xC000 .eram 0 where
  cell a h h' := by rw [decodeAddr_eram mapped h (by omega), Nat.zero_add]
  next := by cases mapped <;> decide
  le := by decide

theorem rangeNames_wram (mapped : Bool) : RangeNames mapped 0xC000 0xE000 .wram 0 where
  cell a h h' := by rw [decodeAddr_wram mapped h (by omega), Nat.zero_add]
  next := by cases mapped <;> decide
  le := by decide

theorem rangeNames_echo (mapped : Bool) : RangeNames mapped 0xE000 0xFE00 .wram 0 where
  cell a h h' := by rw [decodeAddr_echo mapped h (by omega), Nat.zero_add]
  next := by cases mapped <;> decide
  le := by decide

theorem rangeNames_oam (mapped : Bool) : RangeNames mapped 0xFE00 0xFEA0 .oam 0 where
  cell a h h' := by rw [decodeAddr_oam mapped h (by omega), Nat.zero_add]
  next := by cases mapped <;> decide
  le := by decide

theorem rangeNames_hram (mapped : Bool) : RangeNames mapped 0xFF80 0x10000 .hram 0 where
  cell a h _ := by rw [decodeAddr_hram mapped h, Nat.zero_add]
  next := by cases mapped <;> decide
  le := by decide

theorem rangeNames_of_mem {mapped : Bool} {p : Nat × Nat} (h : p ∈ arrayRanges mapped) :
    ∃ r base, RangeNames mapped p.1 p.2 r base := by
  rw [arrayRanges, List.mem_append] at h
  rcases h with h | h
  · cases mapped
    · obtain rfl : p = (0x0000, 0x8000) := by simpa using h
      exact ⟨_, _, rangeNames_rom_uncovered⟩
    · obtain rfl | rfl : p = (0x0000, 0x0100) ∨ p = (0x0100, 0x8000) := by simpa using h
      · exact ⟨_, _, rangeNames_bios⟩
      · exact ⟨_, _, rangeNames_rom true⟩
  · simp only [List.mem_cons, List.not_mem_nil, or_false] at h
    obtain rfl | rfl | rfl | rfl | rfl | rfl := h
    · exact ⟨_, _, rangeNames_vram mapped⟩
    · exact ⟨_, _, rangeNames_eram mapped⟩
    · exact ⟨_, _, rangeNames_wram mapped⟩
    · exact ⟨_, _, rangeNames_echo mapped⟩
    · exact ⟨_, _, rangeNames_oam mapped⟩
    · exact ⟨_, _, rangeNames_hram mapped⟩

section
variable {mapped : Bool} {lo hi : Nat} {r : Region} {base : Nat} {addr : Word} {n : Nat}

theorem add_ofNat_toNat {k : Nat} (h : addr.toNat + k < 0x10000) :
    (addr + BitVec.ofNat 16 k).toNat = addr.toNat + k := by
  rw [BitVec.toNat_add, BitVec.toNat_ofNat, Nat.add_mod_mod, Nat.mod_eq_of_lt h]

/-- The cells that a span inside the range names. -/
theorem RangeNames.span (hr : RangeNames mapped lo hi r base) (hlo : lo ≤ addr.toNat) (h : addr.toNat + n ≤ hi)
    (k : Nat) (hk : k < n) :
    decodeAddr mapped (addr + BitVec.ofNat 16 k) = .cell r (base + (addr.toNat - lo) + k) := by
  have hle := hr.le
  have hadd : (addr + BitVec.ofNat 16 k).toNat = addr.toNat + k := add_ofNat_toNat (by omega)
  rw [hr.cell _ (by omega) (by omega), hadd, Nat.add_assoc, Nat.sub_add_comm hlo]

theorem RangeNames.spanOk_of_le (hr : RangeNames mapped lo hi r base) (hlo : lo ≤ addr.toNat) (hhi : addr.toNat < hi)
    (h : addr.toNat + n ≤ hi) : spanOk mapped addr n = true :=
  (spanOk_iff ..).2 ⟨h.trans hr.le, r, _, hr.cell addr hlo hhi, hr.span hlo h⟩

/-- A span that runs past the range's end would have to name the next cell there. -/
theorem RangeNames.not_spanOk_of_lt (hr : RangeNames mapped lo hi r base) (hlo : lo ≤ addr.toNat) (hhi : addr.toNat < hi)
    (h : hi < addr.toNat + n) : ¬ spanOk mapped addr n = true := by
  rw [spanOk_iff]
  rintro ⟨-, r', i, hd, hspan⟩
  cases (hr.cell addr hlo hhi).symm.trans hd
  have hend : addr + BitVec.ofNat 16 (hi - addr.toNat) = BitVec.ofNat 16 hi := by
    apply BitVec.eq_of_toNat_eq
    rw [BitVec.toNat_add, BitVec.toNat_ofNat, BitVec.toNat_ofNat, Nat.add_mod_mod, Nat.add_sub_cancel' hhi.le]
  have hnext := hspan (hi - addr.toNat) (by omega)
  rw [hend, show base + (addr.toNat - lo) + (hi - addr.toNat) = base + (hi - lo) by omega] at hnext
  exact hr.next hnext

end

/-- Settles O35: a span is accepted exactly where it names consecutive cells, which `RangeNames` decides. -/
theorem fetchRegionInsideOneArray : Obligations.FetchRegionInsideOneArray := by
  refine ⟨fun s addr n h => fetchRegion_of_not_spanOk ?_, fun s addr n k hk _ h => fetchRegion_of_not_spanOk ?_,
    fun s addr n p hp hlo hhi => ?_, fun s addr n h h' => fetchRegion_of_not_spanOk ?_, fun s view k v hk => ?_⟩
  · rw [spanOk_iff]
    omega
  · rw [spanOk_iff]
    rintro ⟨-, r, i, hd, hspan⟩
    exact h r i hd (hspan k hk)
  · obtain ⟨r, base, hr⟩ := rangeNames_of_mem hp
    exact ⟨fun h => ⟨fetchRegion_of_spanOk (hr.spanOk_of_le hlo hhi h), r, base + (addr.toNat - p.1),
      fun k hk => peek_of_cell (hr.span hlo h k hk)⟩,
      fun h => fetchRegion_of_not_spanOk (hr.not_spanOk_of_lt hlo hhi h)⟩
  · rw [spanOk_iff]
    rintro ⟨-, r, i, hd, -⟩
    exact decodeAddr_ne_cell _ h h' r i hd
  · refine ⟨?_, ?_, fun hlow => ?_⟩
    · rw [readView, if_pos hk, readByte_eq]
    · rw [writeView, if_pos hk]
    · rw [writeView, if_pos hk, writeByte_of_not_writable]
      unfold writableAddr
      omega

/-! Host accesses by an address of any width (R67, R203). -/

theorem atAddress_of_wide {α : Type} {s : State} {a : Nat} (k : Word → α × State) (h : 0x10000 ≤ a) :
    atAddress s a k = .error (.addressOutOfBounds a) (raiseFault (.addressOutOfBounds a) s) := by
  rw [atAddress, if_neg (Nat.not_lt.2 h)]

theorem atAddress_of_lt {α : Type} {s : State} {a : Nat} (k : Word → α × State) (h : a < 0x10000) :
    atAddress s a k = .ok (k (BitVec.ofNat 16 a)).1 (k (BitVec.ofNat 16 a)).2 := by
  rw [atAddress, if_pos h]

/-- Settles O36: all four accesses go through `atAddress`. -/
theorem wideAddressFaults : Obligations.WideAddressFaults := fun _ _ _ _ =>
  ⟨fun h => ⟨atAddress_of_wide _ h, atAddress_of_wide _ h, atAddress_of_wide _ h, atAddress_of_wide _ h⟩,
    fun h => ⟨atAddress_of_lt _ h, atAddress_of_lt _ h, atAddress_of_lt _ h, atAddress_of_lt _ h⟩⟩

end Sys2Proof.Machine
end

section
/-! Which arrays a step can change. -/

namespace Sys2Proof.Machine

/-- Settles O19: the fetch keeps every array and the handler keeps these two. -/
theorem stepKeepsRomAndBios : Obligations.StepKeepsRomAndBios := by
  intro s t h
  cases stepEffect_of_step h with
  | halted => exact ⟨rfl, rfl, rfl⟩
  | unknown u _ _ _ _ hu => exact ⟨hu.array .rom, hu.array .bios, hu.config⟩
  | retired ops i u v _ _ _ _ _ hu hv =>
    rw [retire_rom, retire_bios, retire_config]
    exact ⟨hv.rom.trans (hu.array .rom), hv.bios.trans (hu.array .bios), hv.config.trans hu.config⟩

/-- Settles O21: no address decodes to these bytes, so no handler's write reaches them. -/
theorem stepNeverWritesOamTail : Obligations.StepNeverWritesOamTail := by
  intro s t k h hk
  cases stepEffect_of_step h with
  | halted => rfl
  | unknown u _ _ _ _ hu => exact congrArg (Memory.read · k) (hu.array .oam)
  | retired ops i u v _ _ _ _ _ hu hv =>
    rw [retire_oam, hv.oamTail k hk]
    exact congrArg (Memory.read · k) (hu.array .oam)

/-! The handlers that store nothing. -/

theorem incReg8_sameMemory (r : Reg8) (s : State) : SameMemory s (incReg8 r s) := fun _ => by simp [incReg8]

theorem decReg8_sameMemory (r : Reg8) (s : State) : SameMemory s (decReg8 r s) := fun _ => by simp [decReg8]

theorem addHl_sameMemory (rr : Reg16) (s : State) : SameMemory s (addHl rr s) := fun _ => by simp [addHl]

theorem rotateLeftA_sameMemory (s : State) : SameMemory s (rotateLeftA s) := fun _ => by simp [rotateLeftA]

theorem rotateRightA_sameMemory (s : State) : SameMemory s (rotateRightA s) := fun _ => by simp [rotateRightA]

theorem loadAIndirect_sameMemory (rr : Reg16) (s : State) : SameMemory s (loadAIndirect rr s) :=
  fun _ => by simp [loadAIndirect, readIndirect, readByte]

/-- The end of an instruction writes no array. -/
theorem sameMemory_of_complete {s t u : State} {n : Nat} (hu : SameMemory s u) (h : complete n u = .next t) :
    SameMemory s t := by
  cases h
  intro r
  rw [retire_array, hu r]

/-- Settles O57, by the kind of the instruction. -/
theorem onlyStoresWriteMemory : Obligations.OnlyStoresWriteMemory := by
  intro i s t h hBc hDe hHl hInc hDec
  cases i
  case ldMemBcA => exact absurd rfl hBc
  case ldMemDeA => exact absurd rfl hDe
  case ldMemHlD8 v => exact absurd rfl (hHl v)
  case incMemHl => exact absurd rfl hInc
  case decMemHl => exact absurd rfl hDec
  case nop | stop => exact sameMemory_of_complete (fun _ => rfl) h
  case ldBcD16 | ldDeD16 | ldHlD16 | ldSpD16 | incBc | incDe | incHl | incSp | decBc | decDe | decHl | decSp =>
    exact sameMemory_of_complete (setReg16_sameMemory s _ _) h
  case ldBD8 | ldCD8 | ldDD8 | ldED8 | ldHD8 | ldLD8 | ldAD8 =>
    exact sameMemory_of_complete (setReg8_sameMemory s _ _) h
  case incB | incC | incD | incE | incH | incL | incA => exact sameMemory_of_complete (incReg8_sameMemory _ s) h
  case decB | decC | decD | decE | decH | decL | decA => exact sameMemory_of_complete (decReg8_sameMemory _ s) h
  case addHlBc | addHlDe | addHlHl | addHlSp => exact sameMemory_of_complete (addHl_sameMemory _ s) h
  case rlca => exact sameMemory_of_complete (rotateLeftA_sameMemory s) h
  case rrca => exact sameMemory_of_complete (rotateRightA_sameMemory s) h
  case ldAMemBc | ldAMemDe => exact sameMemory_of_complete (loadAIndirect_sameMemory _ s) h

end Sys2Proof.Machine
end

section
/-! The fetch as a function of the bytes at `pc`, and a stored byte that the next step runs. -/

namespace Sys2Proof.Machine

/-! Decoding what the encoder gives. -/

theorem decode_encode {n : StopLength} {i : Instr} (h : i.wellFormed n = true) (rest : List Byte) :
    decode n (encode i ++ rest) = .ok (i, rest) := by
  cases i
  case stop v =>
    cases n <;> cases v
    case one.none | two.some => rfl
    case one.some | two.none => cases h
  case ldBcD16 v | ldDeD16 v | ldHlD16 v | ldSpD16 v =>
    have hv : operandD16 [lo8 v, hi8 v] = v := concat_hi8_lo8 v
    conv => rhs; rw [← hv]
    rfl
  all_goals rfl

/-- The bytes that decode name a slot with a handler, which reads the operands that the slot's length says. -/
theorem build_of_decode {n : StopLength} {op : Byte} {bytes rest : List Byte} {i : Instr}
    (h : decode n (op :: bytes) = .ok (i, rest)) :
    ∃ build, (table n op).build = some build ∧ (table n op).length - 1 ≤ bytes.length ∧
      i = build (bytes.take ((table n op).length - 1)) := by
  rw [decode] at h
  split at h
  · cases h
  · rename_i build hb
    split at h
    · cases h
    · cases h
      exact ⟨build, hb, by omega, rfl⟩

/-- A slot's handler builds instructions of the slot's own length. -/
theorem encode_length_of_table_build {n : StopLength} {op : Byte} {build : List Byte → Instr}
    (h : (table n op).build = some build) (ops : List Byte) : (encode (build ops)).length = (table n op).length := by
  unfold table at h ⊢
  split at h
  case h_16 => cases n <;> cases h <;> rfl
  case h_49 => cases h
  all_goals cases h; rfl

/-! The bytes that a fetch reads (30_encoding.md R100, R106). The states on the way differ from the first one in the
overlay and in `pc` alone. -/

theorem pcTrigger_eq (s : State) :
    pcTrigger s = s.withOverlay (s.biosMapped && !(s.config.overlayTrigger == .pcReaches0100 && s.pc == 0x0100#16)) := by
  rw [← pcTrigger_biosMapped]
  unfold pcTrigger
  split <;> rfl

theorem fetchByte_setPc (s : State) (mapped : Bool) (p : Word) :
    fetchByte ((s.withOverlay mapped).setPc p) = ((s.withOverlay mapped).peek p,
      (s.withOverlay (mapped && !(s.config.overlayTrigger == .readAt0100 && p == 0x0100#16))).setPc (p + 1)) := by
  rw [fetchByte, readByte_eq]
  rfl

theorem afterFetch_eq (s : State) (n : Nat) :
    afterFetch s n = (s.withOverlay (s.biosMapped && !fetchEndsOverlay s n)).setPc (s.pc + BitVec.ofNat 16 n) := rfl

/-- The first byte's share in ending the overlay: the `pc` trigger's, or that of reading the opcode. -/
theorem fetchEndsOverlay_one (s : State) :
    fetchEndsOverlay s 1 = ((s.config.overlayTrigger == .pcReaches0100 && s.pc == 0x0100#16) ||
      (s.config.overlayTrigger == .readAt0100 && s.pc == 0x0100#16)) := by
  unfold fetchEndsOverlay
  cases s.config.overlayTrigger <;> simp

/-- Each further byte's share is that of its own read. -/
theorem fetchEndsOverlay_succ (s : State) {n : Nat} (hn : n = 1 ∨ n = 2) :
    fetchEndsOverlay s (n + 1) = (fetchEndsOverlay s n ||
      (s.config.overlayTrigger == .readAt0100 && s.pc + BitVec.ofNat 16 n == 0x0100#16)) := by
  unfold fetchEndsOverlay
  rcases hn with rfl | rfl <;> cases s.config.overlayTrigger <;> simp

theorem pc_of_fetchEndsOverlay_one {s : State} (h : fetchEndsOverlay s 1 = true) : s.pc = 0x0100#16 := by
  rw [fetchEndsOverlay_one, ← Bool.and_or_distrib_right, Bool.and_eq_true, beq_iff_eq] at h
  exact h.2

/-- Where the bytes fetched so far ended the overlay, the next one lies above it. -/
theorem next_above_overlay {s : State} {n : Nat} (hn : n = 1 ∨ n = 2) (h : fetchEndsOverlay s n = true) :
    0x0100 ≤ (s.pc + BitVec.ofNat 16 n).toNat := by
  rcases hn with rfl | rfl
  · rw [pc_of_fetchEndsOverlay_one h]
    decide
  · rw [fetchEndsOverlay_succ s (.inl rfl), Bool.or_eq_true, Bool.and_eq_true, beq_iff_eq, beq_iff_eq] at h
    rcases h with h | ⟨-, hpc⟩
    · rw [pc_of_fetchEndsOverlay_one h]
      decide
    · rw [show BitVec.ofNat 16 2 = BitVec.ofNat 16 1 + BitVec.ofNat 16 1 from rfl, ← BitVec.add_assoc, hpc]
      decide

theorem fetchByte_pcTrigger (s : State) : fetchByte (pcTrigger s) = (s.peek s.pc, afterFetch s 1) := by
  refine Prod.ext (fetched_opcode s) ?_
  have hstart : pcTrigger s = (pcTrigger s).setPc s.pc := by rw [← pcTrigger_pc s]; rfl
  rw [hstart, pcTrigger_eq, fetchByte_setPc, afterFetch_eq, fetchEndsOverlay_one, Bool.not_or, Bool.and_assoc]
  rfl

theorem fetchByte_afterFetch (s : State) {n : Nat} (hn : n = 1 ∨ n = 2) :
    fetchByte (afterFetch s n) = (s.peek (s.pc + BitVec.ofNat 16 n), afterFetch s (n + 1)) := by
  have hpeek : (s.withOverlay (s.biosMapped && !fetchEndsOverlay s n)).peek (s.pc + BitVec.ofNat 16 n) =
      s.peek (s.pc + BitVec.ofNat 16 n) := by
    cases hend : fetchEndsOverlay s n with
    | false => rw [Bool.not_false, Bool.and_true, withOverlay_self]
    | true => exact peek_withOverlay s _ (next_above_overlay hn hend)
  rw [afterFetch_eq, fetchByte_setPc, hpeek, afterFetch_eq, fetchEndsOverlay_succ s hn, Bool.not_or, Bool.and_assoc,
    BitVec.add_assoc, BitVec.ofNat_add]
  rfl

/-- The operand bytes of a fetch; no instruction has more than two. -/
theorem fetchOperands_afterFetch (s : State) {k : Nat} (hk : k ≤ 2) :
    fetchOperands k (afterFetch s 1) = ([s.peek (s.pc + 1), s.peek (s.pc + 2)].take k, afterFetch s (k + 1)) := by
  have h1 := fetchByte_afterFetch s (.inl rfl : 1 = 1 ∨ 1 = 2)
  have h2 := fetchByte_afterFetch s (.inr rfl : 2 = 1 ∨ 2 = 2)
  obtain rfl | rfl | rfl : k = 0 ∨ k = 1 ∨ k = 2 := by omega
  · rfl
  · simp only [fetchOperands, h1]
    rfl
  · simp only [fetchOperands, h1, h2]
    rfl

/-- A step runs the instruction that the bytes at `pc` decode to. -/
theorem step_eq_exec {s : State} {i : Instr} {rest : List Byte} (hrun : s.run = .running)
    (h : decode s.config.stopLength [s.peek s.pc, s.peek (s.pc + 1), s.peek (s.pc + 2)] = .ok (i, rest)) :
    step s = exec i (afterFetch s (encode i).length) := by
  obtain ⟨build, hb, hlen, hi⟩ := build_of_decode h
  have hlength : (encode i).length = (table s.config.stopLength (s.peek s.pc)).length :=
    hi ▸ encode_length_of_table_build hb _
  have hpos : 0 < (table s.config.stopLength (s.peek s.pc)).length := hlength ▸ Nat.succ_pos _
  rw [hlength]
  simp only [step, hrun, fetchInstr, fetchByte_pcTrigger, hb, fetchOperands_afterFetch s hlen,
    Nat.sub_add_cancel hpos, ← hi]

theorem retire_peek (n : Nat) (s : State) (addr : Word) : (retire n s).peek addr = s.peek addr :=
  peek_congr s _ (retire_array s n) (retire_biosMapped s n) addr

/-- Settles O58: the first step leaves `pc` at the byte that it stored, and that byte decodes to the instruction. -/
theorem storeIsSeenByNextFetch : Obligations.StoreIsSeenByNextFetch := by
  intro s t v i hm hc hrun hdec hhl hw henc hwf h
  rw [step_eq_exec hrun hdec] at h
  have ht : t = retire (instrCycles s.config (.ldMemHlD8 v)) (writeByte (afterFetch s 2) (s.pc + 2) v) := by
    cases h
    rw [← hhl]
    rfl
  have hcost : 4 ≤ instrCycles s.config (.ldMemHlD8 v) := four_le_instrCycles hc (by simp)
  have htrun : t.run = .running := by
    rw [ht, retire_run, if_neg (by omega), writeByte_run]
    exact hrun
  have htpc : t.pc = s.pc + 2 := by
    rw [ht, retire_pc, writeByte_pc]
    rfl
  have htconfig : t.config = s.config := by
    rw [ht, retire_config, writeByte_config]
    rfl
  have hmem : (afterFetch s 2).memoryWf := keeps_of_array (fun r => by cases r <;> rfl) hm
  have htpeek : t.peek t.pc = v := by rw [htpc, ht, retire_peek, peek_writeByte_self v hmem hw]
  have hdec' := decode_encode hwf [t.peek (t.pc + 1), t.peek (t.pc + 2)]
  rw [henc, ← htconfig, ← htpeek] at hdec'
  rw [step_eq_exec htrun hdec', henc]
  rfl

end Sys2Proof.Machine
end

section
/-! The two directions of the encoding, and the shape of the dispatch table. -/

namespace Sys2Proof.Machine

/-! Encoding what the decoder reads. -/

/-- Settles O8: every constructor's bytes decode to it. -/
theorem decodeOfEncode : Obligations.DecodeOfEncode := fun _ _ rest h => decode_encode h rest

/-- A descriptor's handler gives a well-formed instruction whose operand bytes are the operand slice. -/
def KeepsOperands (n : StopLength) (d : Descriptor) : Prop :=
  ∀ build ops, d.build = some build → ops.length = d.length - 1 →
    (build ops).wellFormed n = true ∧ (build ops).operandBytes = ops

theorem formatF1_keepsOperands {n : StopLength} {op : Byte} {t : Nat} {text : String} {i : Instr}
    (hwf : i.wellFormed n = true) (hi : i.operandBytes = []) : KeepsOperands n (formatF1 op t text i) := by
  intro build ops hb hops
  cases hb
  exact ⟨hwf, hi.trans (List.eq_nil_of_length_eq_zero hops).symm⟩

theorem formatF2_keepsOperands {n : StopLength} {op : Byte} {t : Nat} {text : String} {k : Byte → Instr}
    (hwf : ∀ v, (k v).wellFormed n = true) (hk : ∀ v, (k v).operandBytes = [v]) :
    KeepsOperands n (formatF2 op t text k) := by
  intro build ops hb hops
  cases hb
  obtain ⟨v, rfl⟩ := List.length_eq_one_iff.1 hops
  exact ⟨hwf v, hk v⟩

theorem formatF3_keepsOperands {n : StopLength} {op : Byte} {t : Nat} {text : String} {k : Word → Instr}
    (hwf : ∀ v, (k v).wellFormed n = true) (hk : ∀ v, (k v).operandBytes = [lo8 v, hi8 v]) :
    KeepsOperands n (formatF3 op t text k) := by
  intro build ops hb hops
  cases hb
  obtain ⟨lo, hi, rfl⟩ := List.length_eq_two.1 hops
  refine ⟨hwf _, (hk _).trans ?_⟩
  rw [show operandD16 [lo, hi] = concat hi lo from rfl, lo8_concat, hi8_concat]

/-- The slots by format (R90): four LD rr,d16 in F3, eight LD with an immediate byte in F2, STOP in the format that
`STOP_LENGTH` says, the sentinel without a handler, and the rest in F1. -/
theorem table_keepsOperands (n : StopLength) (op : Byte) : KeepsOperands n (table n op) := by
  unfold table
  split
  case h_2 | h_17 | h_29 | h_39 => exact formatF3_keepsOperands (fun _ => rfl) fun _ => rfl
  case h_7 | h_14 | h_22 | h_28 | h_33 | h_38 | h_43 | h_48 =>
    exact formatF2_keepsOperands (fun _ => rfl) fun _ => rfl
  case h_16 =>
    cases n with
    | one => exact formatF1_keepsOperands rfl rfl
    | two => exact formatF2_keepsOperands (fun _ => rfl) fun _ => rfl
  case h_49 => exact fun _ _ hb => nomatch hb
  all_goals exact formatF1_keepsOperands rfl rfl

/-- Bytes that decode are an opcode with a handler, the operands that the slot's length says, and the rest. -/
theorem decode_cases {n : StopLength} {bytes rest : List Byte} {i : Instr} (h : decode n bytes = .ok (i, rest)) :
    ∃ op ops build, bytes = op :: (ops ++ rest) ∧ (table n op).build = some build ∧
      ops.length = (table n op).length - 1 ∧ i = build ops := by
  cases bytes with
  | nil => cases h
  | cons op bytes =>
    rw [decode] at h
    split at h
    · cases h
    · rename_i build hb
      split at h
      · cases h
      · cases h
        exact ⟨op, _, build, by rw [List.take_append_drop], hb, List.length_take_of_le (by omega), rfl⟩

theorem encode_decode {n : StopLength} {bytes rest : List Byte} {i : Instr} (h : decode n bytes = .ok (i, rest)) :
    i.wellFormed n = true ∧ encode i ++ rest = bytes := by
  obtain ⟨op, ops, build, rfl, hb, hops, rfl⟩ := decode_cases h
  obtain ⟨hwf, hbytes⟩ := table_keepsOperands n op build ops hb hops
  exact ⟨hwf, by rw [encode, opcode_of_table_build hb, hbytes, List.cons_append]⟩

/-- Settles O9: the slot's handler keeps the opcode and the operand slice. -/
theorem encodeOfDecode : Obligations.EncodeOfDecode := fun _ _ _ _ => encode_decode

/-- Settles O7, by running the decoder on each word. -/
theorem writtenWordsDecode : Obligations.WrittenWordsDecode :=
  ⟨rfl, rfl, rfl, rfl, rfl, rfl, rfl, rfl, rfl, rfl, rfl, rfl, rfl⟩

/-! The dispatch table (R90, R95 to R97). -/

theorem table_opcode (n : StopLength) (op : Byte) : (table n op).opcode = op := by
  unfold table
  split
  case h_16 => cases n <;> rfl
  all_goals rfl

theorem length_of_no_build {n : StopLength} {op : Byte} (h : (table n op).build = none) : (table n op).length = 1 := by
  unfold table at h ⊢
  split at h
  case h_16 => cases n <;> cases h
  case h_49 => rfl
  all_goals cases h

theorem table_length_bounds (n : StopLength) (op : Byte) : 1 ≤ (table n op).length ∧ (table n op).length ≤ 3 := by
  unfold table
  split
  case h_16 => cases n <;> decide
  all_goals exact ⟨Nat.le_of_ble_eq_true rfl, Nat.le_of_ble_eq_true rfl⟩

theorem build_eq_none_iff (n : StopLength) (op : Byte) : (table n op).build = none ↔ admitted op = false := by
  rw [← table_build_isSome n op, Option.isSome_eq_false_iff, Option.isNone_iff_eq_none]

/-- R96's list, slot by slot. -/
theorem admitted_eq_false_iff : ∀ op : Byte, admitted op = false ↔
    0x40 ≤ op.toNat ∨ op.toNat ∈ [0x08, 0x17, 0x18, 0x1F, 0x20, 0x22, 0x27, 0x28, 0x2A, 0x2F, 0x30, 0x32, 0x37, 0x38,
      0x3A, 0x3F] := by
  decide

/-- The 16 listed slots below 0x40, and the 192 slots from 0x40 on. -/
theorem sentinel_count : ((List.range 256).countP fun k => !admitted (BitVec.ofNat 8 k)) = 208 := by
  have hlow : ((List.range 64).countP fun k => !admitted (BitVec.ofNat 8 k)) = 16 := by decide
  have hhigh : (((List.range 192).map (64 + ·)).countP fun k => !admitted (BitVec.ofNat 8 k)) =
      ((List.range 192).map (64 + ·)).length := by
    refine List.countP_eq_length.2 fun k hk => ?_
    obtain ⟨j, hj, rfl⟩ := List.mem_map.1 hk
    rw [List.mem_range] at hj
    have hop : admitted (BitVec.ofNat 8 (64 + j)) = false :=
      (admitted_eq_false_iff _).2 (.inl (by rw [BitVec.toNat_ofNat]; omega))
    rw [hop, Bool.not_false]
  rw [show 256 = 64 + 192 from rfl, List.range_add, List.countP_append, hlow, hhigh, List.length_map, List.length_range]

/-- Settles O10: `STOP_LENGTH` does not decide which slots have a handler, so the list is that of `admitted`. -/
theorem sentinelSlots : Obligations.SentinelSlots :=
  ⟨fun n op => (build_eq_none_iff n op).trans (admitted_eq_false_iff op), fun _ _ => length_of_no_build,
    sentinel_count, rfl, fun _ => ⟨rfl, rfl⟩⟩

/-- The slots of format F3, slot by slot. -/
theorem table_length_eq_three_iff (n : StopLength) :
    ∀ op, (table n op).length = 3 ↔ op.toNat % 16 = 1 ∧ op.toNat < 0x40 := by
  cases n <;> decide

/-- Settles O11: each slot's own opcode and length. -/
theorem dispatchTableShape : Obligations.DispatchTableShape := fun n op =>
  ⟨table_opcode n op, (table_length_bounds n op).1, (table_length_bounds n op).2, table_length_eq_three_iff n op⟩

/-! The fields of an opcode byte (R98). -/

theorem opcodeYZ_y : ∀ y z, (opcodeYZ y z).extractLsb' 3 3 = y := by decide

theorem opcodePQZ_pp : ∀ pp q z, (opcodePQZ pp q z).extractLsb' 4 2 = pp := by decide

theorem opcodePQZ_q : ∀ pp q z, (opcodePQZ pp q z).getLsbD 3 = q.getLsbD 0 := by decide

theorem opcodePQZ_z : ∀ pp q z, (opcodePQZ pp q z).extractLsb' 0 3 = z := by decide

theorem incReg_opcode (r : Reg8) : (Instr.incReg r).opcode = opcodeYZ (fieldR r) 0b100#3 := by cases r <;> rfl

theorem decReg_opcode (r : Reg8) : (Instr.decReg r).opcode = opcodeYZ (fieldR r) 0b101#3 := by cases r <;> rfl

theorem loadReg_opcode (r : Reg8) (v : Byte) : (Instr.loadReg r v).opcode = opcodeYZ (fieldR r) 0b110#3 := by
  cases r <;> rfl

theorem loadPair_opcode (rr : Reg16) (v : Word) :
    (Instr.loadPair rr v).opcode = opcodePQZ (fieldPP rr) 0#1 0b001#3 := by
  cases rr <;> rfl

theorem addPair_opcode (rr : Reg16) : (Instr.addPair rr).opcode = opcodePQZ (fieldPP rr) 1#1 0b001#3 := by
  cases rr <;> rfl

theorem incPair_opcode (rr : Reg16) : (Instr.incPair rr).opcode = opcodePQZ (fieldPP rr) 0#1 0b011#3 := by
  cases rr <;> rfl

theorem decPair_opcode (rr : Reg16) : (Instr.decPair rr).opcode = opcodePQZ (fieldPP rr) 1#1 0b011#3 := by
  cases rr <;> rfl

/-- Settles O12: each form's opcode is made of its fields, and a field of such a byte is what it was made of. -/
theorem operandFields : Obligations.OperandFields := by
  refine ⟨fun r => ?_, fun r => by cases r <;> rfl, ⟨opcodeYZ_y .., opcodeYZ_y .., fun _ => opcodeYZ_y ..⟩,
    fun rr v => ?_, fun rr => by cases rr <;> rfl, rfl, rfl, rfl, rfl⟩
  · simp only [incReg_opcode, decReg_opcode, loadReg_opcode, opcodeYZ_y, implies_true, and_self]
  · rw [loadPair_opcode, addPair_opcode, incPair_opcode, decPair_opcode]
    simp only [opcodePQZ_pp, opcodePQZ_q, opcodePQZ_z]
    decide

end Sys2Proof.Machine
end

section
/-! One step by what the bytes at `pc` decode to, and the outcome it reports. -/

namespace Sys2Proof.Machine

theorem fetchInstr_of_not_admitted {s : State} (h : admitted (s.peek s.pc) = false) :
    fetchInstr s = .unknown (s.peek s.pc) s.pc (afterFetch s 1) := by
  have hb := (build_eq_none_iff s.config.stopLength _).2 h
  simp only [fetchInstr, fetchByte_pcTrigger, hb]

/-- Three bytes are enough for every instruction. -/
theorem decode_of_admitted (n : StopLength) {op : Byte} (x y : Byte) (h : admitted op = true) :
    ∃ i rest, decode n [op, x, y] = .ok (i, rest) := by
  rw [← table_build_isSome n, Option.isSome_iff_exists] at h
  obtain ⟨build, hb⟩ := h
  have hlen : ¬ [x, y].length < (table n op).length - 1 := by
    have := (table_length_bounds n op).2
    simp only [List.length_cons, List.length_nil]
    omega
  exact ⟨_, _, by simp only [decode, hb, if_neg hlen]; rfl⟩

theorem not_admitted_or_decode (s : State) : admitted (s.peek s.pc) = false ∨ ∃ i rest,
    decode s.config.stopLength [s.peek s.pc, s.peek (s.pc + 1), s.peek (s.pc + 2)] = .ok (i, rest) := by
  cases h : admitted (s.peek s.pc) with
  | false => exact .inl rfl
  | true => exact .inr (decode_of_admitted _ _ _ h)

section
variable {s : State} {i : Instr} {rest : List Byte}
  (h : decode s.config.stopLength [s.peek s.pc, s.peek (s.pc + 1), s.peek (s.pc + 2)] = .ok (i, rest))
include h

theorem opcode_of_decode : i.opcode = s.peek s.pc := (List.cons.inj (encode_decode h).2).1

/-- The operand slice of a fetch is the instruction's own operand bytes. -/
theorem fetchInstr_of_decode :
    fetchInstr s = .instr s.pc i.opcode i.operandBytes i (afterFetch s (encode i).length) := by
  obtain ⟨op, ops, build, hbytes, hb, hops, rfl⟩ := decode_cases h
  obtain ⟨rfl, htail⟩ := List.cons.inj hbytes
  have hlen : (table s.config.stopLength (s.peek s.pc)).length - 1 ≤ 2 := by
    have := (table_length_bounds s.config.stopLength (s.peek s.pc)).2
    omega
  have htake : [s.peek (s.pc + 1), s.peek (s.pc + 2)].take
      ((table s.config.stopLength (s.peek s.pc)).length - 1) = ops := by
    rw [htail, ← hops, List.take_left]
  rw [opcode_of_table_build hb, (table_keepsOperands _ _ build ops hb hops).2, encode_length_of_table_build hb]
  simp only [fetchInstr, fetchByte_pcTrigger, hb, fetchOperands_afterFetch s hlen, htake,
    Nat.sub_add_cancel (table_length_bounds _ _).1]

theorem stepResult_of_decode (hrun : s.run = .running) :
    stepResult s = if instrCycles s.config i = 0 then .stopped else .ok (instrCycles s.config i) :=
  stepResult_of_instr hrun (fetchInstr_of_decode h)

end

/-! The step and its outcome (R100, R102). -/

theorem step_of_halted {s : State} {r : HaltReason} (h : s.run = .halted r) : step s = .next s := by
  simp only [step, h]

theorem step_of_not_admitted {s : State} (hrun : s.run = .running) (h : admitted (s.peek s.pc) = false) :
    step s = .next (raiseFault (.unknownInstruction (s.peek s.pc) s.pc) (afterFetch s 1)) := by
  simp only [step, hrun, fetchInstr_of_not_admitted h]

theorem exec_next (i : Instr) (s : State) : ∃ t, exec i s = .next t :=
  let ⟨_, _, h⟩ := exec_cases i s
  ⟨_, h⟩

theorem step_next (s : State) : ∃ t, step s = .next t := by
  obtain ⟨r, -, h⟩ | ⟨-, op, a0, u, -, h⟩ | ⟨-, a0, op, ops, i, u, -, h⟩ := step_cases s
  · exact ⟨_, h⟩
  · exact ⟨_, h⟩
  · rw [h]
    exact exec_next i u

/-- Settles O13, by the fetch of the bytes at `pc`. -/
theorem stepRunsDecodedInstruction : Obligations.StepRunsDecodedInstruction := fun _ _ _ => step_eq_exec

/-- Settles O16: no handler answers a fault or a refusal, and an error or a halt is a next state (log entry 9). -/
theorem stepAlwaysAnswers : Obligations.StepAlwaysAnswers := step_next

/-- Settles O56: the override is the count that `retire` adds. -/
theorem cycleOverride : Obligations.CycleOverride := by
  intro i s n hlookup hn hi
  obtain ⟨t, ht, hexec⟩ := exec_cases i s
  have hcost : instrCycles s.config i = n := by rw [instrCycles_eq_cyclesOf _ hi, cyclesOf, hlookup]
  rw [hcost] at hexec
  refine ⟨_, hexec, ?_, ?_⟩
  · rw [retire_cycles, ht.cycles]
  · rw [retire_run, if_neg (by omega), ht.run]

/-- Only STOP has the opcode 0x10: every other instruction's slot has a default cost. -/
theorem eq_stop_of_opcode {i : Instr} (h : i.opcode = 0x10#8) : ∃ v, i = .stop v := by
  by_contra hne
  have hcost := four_le_tStates .two (not_exists.1 hne)
  rw [h] at hcost
  exact absurd hcost (by decide)

/-- Settles O24: a decoded instruction returns 0 if it is STOP and at least 4 if it is not. -/
theorem stepOutcomes : Obligations.StepOutcomes := by
  intro s hc
  refine ⟨fun _ => stepResult_of_halted, fun hrun hadm hne => ?_, fun hrun hop => ?_, fun hrun hadm =>
    stepResult_of_unknown hrun (fetchInstr_of_not_admitted hadm)⟩
  · obtain ⟨i, rest, h⟩ := decode_of_admitted s.config.stopLength (s.peek (s.pc + 1)) (s.peek (s.pc + 2)) hadm
    have hi : ∀ v, i ≠ .stop v := by
      rintro v rfl
      exact hne (opcode_of_decode h).symm
    have hcost := four_le_instrCycles hc hi
    exact ⟨_, hcost, by rw [stepResult_of_decode h hrun, if_neg (by omega)]⟩
  · obtain ⟨i, rest, h⟩ := decode_of_admitted s.config.stopLength (s.peek (s.pc + 1)) (s.peek (s.pc + 2))
      (show admitted (s.peek s.pc) = true by rw [hop]; rfl)
    obtain ⟨v, rfl⟩ := eq_stop_of_opcode ((opcode_of_decode h).trans hop)
    exact (stepResult_of_decode h hrun).trans (if_pos rfl)

end Sys2Proof.Machine
end

section
/-! Any number of steps, and `run(bound)` (30_encoding.md R103). -/

namespace Sys2Proof.Machine

theorem core_run_succ (k : Nat) (s : State) : core.run (k + 1) s = core.run k (stepState s) := by
  obtain ⟨t, h⟩ := step_next s
  have hcore : core.step s = .next t := h
  simp only [Host.Core.run, hcore, stepState, h]

theorem core_run_of_halted (k : Nat) {s : State} {r : HaltReason} (h : s.run = .halted r) :
    core.run k s = .next s := by
  induction k with
  | zero => rfl
  | succ k ih =>
    have hstep : stepState s = s := by simp only [stepState, step_of_halted h]
    rw [core_run_succ, hstep, ih]

/-- The count of steps and the last outcome so far only accumulate. -/
theorem runFrom_eq (steps : Nat) (last : Option StepResult) (bound : Nat) (s : State) :
    runFrom steps last bound s = { steps := (runCore bound s).steps + steps, last := (runCore bound s).last.or last,
                                   state := (runCore bound s).state } := by
  unfold runCore
  induction bound generalizing steps last s with
  | zero => simp [runFrom]
  | succ bound ih =>
    cases hrun : s.run with
    | halted r => simp [runFrom, hrun]
    | running =>
      simp only [runFrom, hrun]
      rw [ih, ih (0 + 1)]
      simp [Nat.add_assoc, Nat.add_comm 1]

theorem runCore_of_halted (bound : Nat) {s : State} {r : HaltReason} (h : s.run = .halted r) :
    runCore bound s = { steps := 0, last := none, state := s } := by
  cases bound with
  | zero => rfl
  | succ bound => simp only [runCore, runFrom, h]

theorem runCore_succ (bound : Nat) {s : State} (h : s.run = .running) :
    runCore (bound + 1) s = { steps := (runCore bound (stepState s)).steps + 1,
                              last := (runCore bound (stepState s)).last.or (some (stepResult s)),
                              state := (runCore bound (stepState s)).state } := by
  rw [← runFrom_eq]
  simp only [runCore, runFrom, h]

theorem runCore_steps_le (bound : Nat) (s : State) : (runCore bound s).steps ≤ bound := by
  induction bound generalizing s with
  | zero => exact Nat.le_refl 0
  | succ bound ih =>
    cases hrun : s.run with
    | halted r => simp [runCore_of_halted _ hrun]
    | running =>
      rw [runCore_succ bound hrun]
      exact Nat.succ_le_succ (ih _)

theorem runCore_halted_of_steps_lt {bound : Nat} {s : State} (h : (runCore bound s).steps < bound) :
    ∃ r, (runCore bound s).state.run = .halted r := by
  induction bound generalizing s with
  | zero => cases h
  | succ bound ih =>
    cases hrun : s.run with
    | halted r => exact ⟨r, by rw [runCore_of_halted _ hrun, hrun]⟩
    | running =>
      rw [runCore_succ bound hrun] at h ⊢
      exact ih (Nat.lt_of_succ_lt_succ h)

theorem core_run_runCore (bound : Nat) (s : State) :
    core.run (runCore bound s).steps s = .next (runCore bound s).state := by
  induction bound generalizing s with
  | zero => rfl
  | succ bound ih =>
    cases hrun : s.run with
    | halted r => rw [runCore_of_halted _ hrun]; rfl
    | running => rw [runCore_succ bound hrun, core_run_succ, ih]

theorem runCore_last_of_steps_eq_zero {bound : Nat} {s : State} (h : (runCore bound s).steps = 0) :
    (runCore bound s).last = none := by
  cases bound with
  | zero => rfl
  | succ bound =>
    cases hrun : s.run with
    | halted r => rw [runCore_of_halted _ hrun]
    | running => rw [runCore_succ bound hrun] at h; cases h

/-- The state before the last step is running, and the last outcome is that step's. -/
theorem runCore_last {bound k : Nat} {s t : State} (hsteps : (runCore bound s).steps = k + 1)
    (h : core.run k s = .next t) : t.run = .running ∧ (runCore bound s).last = some (stepResult t) := by
  induction bound generalizing s k with
  | zero => cases hsteps
  | succ bound ih =>
    cases hrun : s.run with
    | halted r => rw [runCore_of_halted _ hrun] at hsteps; cases hsteps
    | running =>
      rw [runCore_succ bound hrun] at hsteps ⊢
      cases k with
      | zero =>
        cases h
        exact ⟨hrun, by rw [runCore_last_of_steps_eq_zero (Nat.succ.inj hsteps), Option.none_or]⟩
      | succ k =>
        rw [core_run_succ] at h
        obtain ⟨htrun, hlast⟩ := ih (Nat.succ.inj hsteps) h
        exact ⟨htrun, by rw [hlast, Option.some_or]⟩

/-- Settles O26, each part by induction on the bound. -/
theorem runStopsAtHaltOrBound : Obligations.RunStopsAtHaltOrBound := fun bound s =>
  ⟨runCore_steps_le bound s, runCore_halted_of_steps_lt, core_run_runCore bound s, fun _ _ => runCore_last,
    fun _ hr => by rw [runCore_of_halted bound hr]; exact ⟨rfl, rfl⟩⟩

end Sys2Proof.Machine
end

section
/-! A halted core under steps and the host's calls (30_encoding.md R101, 60_exceptions.md R210). -/

namespace Sys2Proof.Machine

theorem stepTrace_of_halted {s : State} {r : HaltReason} (h : s.run = .halted r) : stepTrace s = none := by
  simp only [stepTrace, h]

theorem hostWriteReg_run (s : State) (reg : HostReg) (v : Word) : (hostWriteReg s reg v).run = s.run := by
  cases reg with
  | byte r => exact setReg8_run s r (lo8 v)
  | pair rr => exact setReg16_run s rr v
  | f | af | pc => rfl

theorem readByte_run (s : State) (addr : Word) : (readByte s addr).2.run = s.run := readTrigger_run s addr

theorem readShort_run (s : State) (addr : Word) : (readShort s addr).2.run = s.run :=
  (readByte_run _ _).trans (readByte_run s addr)

theorem writeShort_run (s : State) (addr v : Word) : (writeShort s addr v).run = s.run :=
  (writeByte_run _ _ _).trans (writeByte_run s addr (lo8 v))

theorem readView_run {s t : State} {view : RegionView} {k : Nat} {x : Byte} (h : readView s view k = some (x, t)) :
    t.run = s.run := by
  unfold readView at h
  split at h
  · cases h
    exact readByte_run s _
  · cases h

theorem writeView_run {s t : State} {view : RegionView} {k : Nat} {v : Byte} (h : writeView s view k v = some t) :
    t.run = s.run := by
  unfold writeView at h
  split at h
  · cases h
    exact writeByte_run s _ v
  · cases h

/-- A host access by an address of any width keeps the run state or halts. -/
theorem atAddress_isHalted {α : Type} {s : State} (a : Nat) {k : Word → α × State} (hk : ∀ w, (k w).2.run = s.run)
    (hs : s.isHalted) : (atAddress s a k).state.isHalted := by
  rcases Nat.lt_or_ge a 0x10000 with ha | ha
  · rw [atAddress_of_lt k ha]
    obtain ⟨r, hr⟩ := hs
    exact ⟨r, (hk _).trans hr⟩
  · rw [atAddress_of_wide k ha]
    exact ⟨_, rfl⟩

/-- Settles O15: no host call but `reset()` writes the run state of a halted core, except to halt it. -/
theorem haltedForGood : Obligations.HaltedForGood := by
  intro s r hr
  have hs : s.isHalted := ⟨r, hr⟩
  refine ⟨step_of_halted hr, stepResult_of_halted hr, stepTrace_of_halted hr, fun k => core_run_of_halted k hr,
    fun bound => by rw [runCore_of_halted bound hr], fun reg v => (hostWriteReg_run s reg v).trans hr, hr, ?_, ?_, ?_,
    rfl⟩
  · exact fun addr v w => ⟨(readByte_run s addr).trans hr, (writeByte_run s addr v).trans hr,
      (readShort_run s addr).trans hr, (writeShort_run s addr w).trans hr⟩
  · exact fun view k v => ⟨fun x t h => (readView_run h).trans hr, fun t h => (writeView_run h).trans hr⟩
  · exact fun a v w => ⟨atAddress_isHalted a (readByte_run s) hs, atAddress_isHalted a (writeByte_run s · v) hs,
      atAddress_isHalted a (readShort_run s) hs, atAddress_isHalted a (writeShort_run s · w) hs⟩

end Sys2Proof.Machine
end

section
/-! The trace hook (30_encoding.md R104): what it is called with, and that no operation depends on it. -/

namespace Sys2Proof.Machine

theorem stepTrace_of_not_admitted {s : State} (h : admitted (s.peek s.pc) = false) : stepTrace s = none := by
  cases hrun : s.run with
  | halted r => exact stepTrace_of_halted hrun
  | running => simp only [stepTrace, hrun, fetchInstr_of_not_admitted h]

theorem stepTrace_of_no_hook {s : State} (h : s.config.traceHook = false) : stepTrace s = none := by
  unfold stepTrace
  split
  · rfl
  · split
    · rfl
    · rw [h]; rfl

theorem stepTrace_of_decode {s : State} {i : Instr} {rest : List Byte} (hrun : s.run = .running)
    (hhook : s.config.traceHook = true)
    (h : decode s.config.stopLength [s.peek s.pc, s.peek (s.pc + 1), s.peek (s.pc + 2)] = .ok (i, rest)) :
    stepTrace s = some { addr := s.pc, opcode := i.opcode, operands := i.operandBytes,
                         cycles := instrCycles s.config i } := by
  simp only [stepTrace, hrun, fetchInstr_of_decode h, hhook, if_true]

/-! Every operation leaves the same state, but for the registration, whether or not a hook is registered. -/

section
variable (s : State) (on : Bool)

theorem setReg8_withHook (r : Reg8) (v : Byte) : (s.withHook on).setReg8 r v = (s.setReg8 r v).withHook on := by
  cases r <;> rfl

theorem setReg16_withHook (rr : Reg16) (v : Word) :
    (s.withHook on).setReg16 rr v = (s.setReg16 rr v).withHook on := by
  cases rr <;> rfl

theorem setArray_withHook (r : Region) (m : Memory) :
    (s.withHook on).setArray r m = (s.setArray r m).withHook on := by
  cases r <;> rfl

theorem readTrigger_withHook (addr : Word) : readTrigger addr (s.withHook on) = (readTrigger addr s).withHook on := by
  rw [readTrigger_eq, readTrigger_eq]
  rfl

theorem writeByte_withHook (addr : Word) (v : Byte) :
    writeByte (s.withHook on) addr v = (writeByte s addr v).withHook on := by
  unfold writeByte
  rw [show (s.withHook on).biosMapped = s.biosMapped from rfl]
  split
  · split
    · exact setArray_withHook s on _ _
    · rfl
  · rfl
  · rfl

theorem withHook_reg8 (r : Reg8) : (s.withHook on).reg8 r = s.reg8 r := by cases r <;> rfl

theorem withHook_reg16 (rr : Reg16) : (s.withHook on).reg16 rr = s.reg16 rr := by cases rr <;> rfl

theorem withHook_a : (s.withHook on).a = s.a := rfl

theorem setZNH_withHook (z n h : Bool) : (s.withHook on).setZNH z n h = (s.setZNH z n h).withHook on := rfl

theorem setNHC_withHook (n h c : Bool) : (s.withHook on).setNHC n h c = (s.setNHC n h c).withHook on := rfl

theorem setZNHC_withHook (z n h c : Bool) : (s.withHook on).setZNHC z n h c = (s.setZNHC z n h c).withHook on := rfl

theorem incReg8_withHook (r : Reg8) : incReg8 r (s.withHook on) = (incReg8 r s).withHook on := by
  simp only [incReg8, withHook_reg8, setReg8_withHook, setZNH_withHook]

theorem decReg8_withHook (r : Reg8) : decReg8 r (s.withHook on) = (decReg8 r s).withHook on := by
  simp only [decReg8, withHook_reg8, setReg8_withHook, setZNH_withHook]

theorem incReg16_withHook (rr : Reg16) : incReg16 rr (s.withHook on) = (incReg16 rr s).withHook on := by
  rw [incReg16, withHook_reg16, setReg16_withHook, incReg16]

theorem decReg16_withHook (rr : Reg16) : decReg16 rr (s.withHook on) = (decReg16 rr s).withHook on := by
  rw [decReg16, withHook_reg16, setReg16_withHook, decReg16]

theorem addHl_withHook (rr : Reg16) : addHl rr (s.withHook on) = (addHl rr s).withHook on := by
  simp only [addHl, withHook_reg16, setReg16_withHook, setNHC_withHook]

theorem rotateLeftA_withHook : rotateLeftA (s.withHook on) = (rotateLeftA s).withHook on := by
  simp only [rotateLeftA, withHook_a, setReg8_withHook, setZNHC_withHook]

theorem rotateRightA_withHook : rotateRightA (s.withHook on) = (rotateRightA s).withHook on := by
  simp only [rotateRightA, withHook_a, setReg8_withHook, setZNHC_withHook]

theorem readIndirect_withHook (rr : Reg16) : readIndirect (s.withHook on) rr =
    ((readIndirect s rr).1, (readIndirect s rr).2.withHook on) :=
  congrArg (Prod.mk _) (readTrigger_withHook s on (s.reg16 rr))

theorem writeIndirect_withHook (rr : Reg16) (v : Byte) :
    writeIndirect (s.withHook on) rr v = (writeIndirect s rr v).withHook on :=
  writeByte_withHook s on (s.reg16 rr) v

theorem loadAIndirect_withHook (rr : Reg16) : loadAIndirect rr (s.withHook on) = (loadAIndirect rr s).withHook on := by
  simp only [loadAIndirect, readIndirect_withHook, setReg8_withHook]

theorem incMem_withHook : incMem (s.withHook on) = (incMem s).withHook on := by
  simp only [incMem, readIndirect_withHook, writeIndirect_withHook, setZNH_withHook]

theorem decMem_withHook : decMem (s.withHook on) = (decMem s).withHook on := by
  simp only [decMem, readIndirect_withHook, writeIndirect_withHook, setZNH_withHook]

theorem retire_withHook (n : Nat) : retire n (s.withHook on) = (retire n s).withHook on := by
  unfold retire
  split <;> rfl

/-- Two handler results that differ in the hook's registration alone end so. -/
theorem complete_withHook {u v : State} (n : Nat) (h : v = u.withHook on) :
    ∃ t, complete n u = .next t ∧ complete n v = .next (t.withHook on) :=
  ⟨_, rfl, by rw [h, complete, retire_withHook]⟩

/-- An instruction leaves the same, whether or not a hook is registered, by the kind of the instruction. -/
theorem exec_withHook (i : Instr) :
    ∃ t, exec i s = .next t ∧ exec i (s.withHook on) = .next (t.withHook on) := by
  cases i
  case nop | stop => exact complete_withHook on _ rfl
  case ldBcD16 | ldDeD16 | ldHlD16 | ldSpD16 => exact complete_withHook on _ (setReg16_withHook s on _ _)
  case ldBD8 | ldCD8 | ldDD8 | ldED8 | ldHD8 | ldLD8 | ldAD8 =>
    exact complete_withHook on _ (setReg8_withHook s on _ _)
  case incB | incC | incD | incE | incH | incL | incA => exact complete_withHook on _ (incReg8_withHook s on _)
  case decB | decC | decD | decE | decH | decL | decA => exact complete_withHook on _ (decReg8_withHook s on _)
  case incBc | incDe | incHl | incSp => exact complete_withHook on _ (incReg16_withHook s on _)
  case decBc | decDe | decHl | decSp => exact complete_withHook on _ (decReg16_withHook s on _)
  case addHlBc | addHlDe | addHlHl | addHlSp => exact complete_withHook on _ (addHl_withHook s on _)
  case rlca => exact complete_withHook on _ (rotateLeftA_withHook s on)
  case rrca => exact complete_withHook on _ (rotateRightA_withHook s on)
  case incMemHl => exact complete_withHook on _ (incMem_withHook s on)
  case decMemHl => exact complete_withHook on _ (decMem_withHook s on)
  case ldMemBcA | ldMemDeA | ldMemHlD8 => exact complete_withHook on _ (writeIndirect_withHook s on _ _)
  case ldAMemBc | ldAMemDe => exact complete_withHook on _ (loadAIndirect_withHook s on _)

/-- The bytes at `pc`, the decoder and the state after the fetch do not depend on the hook. -/
theorem step_withHook : stepResult (s.withHook on) = stepResult s ∧
    ∃ t, step s = .next t ∧ step (s.withHook on) = .next (t.withHook on) := by
  cases hrun : s.run with
  | halted r =>
    have hrun' : (s.withHook on).run = .halted r := hrun
    exact ⟨by rw [stepResult_of_halted hrun, stepResult_of_halted hrun'], s, step_of_halted hrun,
      step_of_halted hrun'⟩
  | running =>
    have hrun' : (s.withHook on).run = .running := hrun
    rcases not_admitted_or_decode s with h | ⟨i, rest, h⟩
    · have h' : admitted ((s.withHook on).peek (s.withHook on).pc) = false := h
      refine ⟨?_, _, step_of_not_admitted hrun h, step_of_not_admitted hrun' h'⟩
      rw [stepResult_of_unknown hrun (fetchInstr_of_not_admitted h),
        stepResult_of_unknown hrun' (fetchInstr_of_not_admitted h')]
      rfl
    · have h' : decode (s.withHook on).config.stopLength [(s.withHook on).peek (s.withHook on).pc,
          (s.withHook on).peek ((s.withHook on).pc + 1), (s.withHook on).peek ((s.withHook on).pc + 2)] =
            .ok (i, rest) := h
      refine ⟨?_, ?_⟩
      · rw [stepResult_of_decode h hrun, stepResult_of_decode h' hrun']
        rfl
      · rw [step_eq_exec hrun h, step_eq_exec hrun' h']
        exact exec_withHook (afterFetch s (encode i).length) on i

end

/-- Settles O25: the call from the fetch, and the rest by the kind of the instruction. -/
theorem traceHookCall : Obligations.TraceHookCall := fun s =>
  ⟨fun _ => stepTrace_of_halted, stepTrace_of_not_admitted, stepTrace_of_no_hook,
    fun hrun hhook _ _ => stepTrace_of_decode hrun hhook, step_withHook s⟩

end Sys2Proof.Machine
end

section
/-! What the instructions' statements share: how a handler's end, its bytes and its stores are read off. -/

namespace Sys2Proof.Machine

/-- Without an override, every instruction returns its slot's default (30_encoding.md R94), STOP's 0 among them. -/
theorem instrCycles_of_no_override {cfg : Config} (i : Instr) (h : cfg.cycles = []) :
    instrCycles cfg i = (table cfg.stopLength i.opcode).tStates := by
  by_cases hi : ∃ v, i = .stop v
  · obtain ⟨v, rfl⟩ := hi
    rw [show (Instr.stop v).opcode = 0x10#8 from rfl]
    cases cfg.stopLength <;> rfl
  · rw [instrCycles_eq_cyclesOf _ (not_exists.1 hi), cyclesOf, h]
    rfl

/-- `retire` ends a handler as `Retired` says, with the slot's default cost. -/
theorem HandlerKeeps.retired {s u : State} (h : HandlerKeeps s u) {i : Instr} {dflt : Nat}
    (hdflt : ∀ n, (table n i.opcode).tStates = dflt) : Retired i dflt s (retire (instrCycles s.config i) u) := by
  refine ⟨(retire_pc ..).trans h.pc, (retire_config ..).trans h.config, ?_, fun hc => ?_, ?_⟩
  · rw [retire_cycles, h.cycles]
  · rw [instrCycles_of_no_override i hc, hdflt]
  · rw [retire_run, h.run]

/-- The decoder reads an instruction from the encoder's bytes, so those are its bytes. -/
theorem encodedAs_of_encode {i : Instr} {bytes : List Byte} (h : encode i = bytes) : EncodedAs i bytes :=
  ⟨h, fun _ rest hwf => h ▸ decode_encode hwf rest⟩

theorem retire_flagsWf {u : State} (k : Nat) (h : u.flagsWf) : (retire k u).flagsWf := by
  rwa [State.flagsWf, retire_f]

theorem untouchedMemory_of_same {s t : State} (hm : SameMemory s t) (hb : t.biosMapped = s.biosMapped) :
    UntouchedMemory s t := ⟨hm, hb, peek_congr s t hm hb⟩

@[simp] theorem withOverlay_array (s : State) (mapped : Bool) (r : Region) :
    (s.withOverlay mapped).array r = s.array r := by
  cases r <;> rfl

/-- A store is said of the arrays, and of the overlay after it, alone. -/
theorem StoredAt.congr {addr : Word} {v : Byte} {s s' t t' : State} (h : StoredAt addr v s t)
    (hs : SameMemory s s') (ht : SameMemory t t') (hb : t'.biosMapped = t.biosMapped) : StoredAt addr v s' t' := by
  obtain ⟨hself, hignored, hcell, hother⟩ := h
  have hbefore (b : Word) : (s'.withOverlay t.biosMapped).peek b = (s.withOverlay t.biosMapped).peek b :=
    peek_congr (s.withOverlay t.biosMapped) (s'.withOverlay t.biosMapped) (fun r => by simp [hs r]) rfl b
  unfold StoredAt
  rw [hb]
  refine ⟨fun hw => ?_, fun hw r => ?_, fun r i hne => ?_, fun b hne => ?_⟩
  · rw [peek_congr t t' ht hb, hself hw]
  · rw [ht r, hs r, hignored hw r]
  · rw [ht r, hs r, hcell r i hne]
  · rw [peek_congr t t' ht hb, hbefore, hother b hne]

/-- A byte stored where a byte was read before: the read touches no array. -/
theorem writeByte_readTrigger_storedAt {s : State} (addr : Word) (v : Byte) (hm : s.memoryWf) :
    StoredAt addr v s (writeByte (readTrigger addr s) addr v) :=
  (writeByte_storedAt addr v (keeps_of_array (readTrigger_array s addr) hm)).congr
    (fun r => (readTrigger_array s addr r).symm) (fun _ => rfl) rfl

end Sys2Proof.Machine
end

section
/-! 8-bit increment and decrement (41_inc_dec8.md). -/

namespace Sys2Proof.Machine

/-! The ALU functions (R130, R135). -/

theorem ofNat_beq_zero (n : Nat) : (BitVec.ofNat 8 n == 0) = decide (n % 256 = 0) := by
  rw [beq_eq_decide, decide_eq_decide, ← BitVec.toNat_inj, BitVec.toNat_ofNat]
  rfl

theorem aluInc8_result_toNat (v : Byte) : (aluInc8 v).1.toNat = (v.toNat + 1) % 256 := BitVec.toNat_ofNat ..

theorem aluInc8_zero (v : Byte) : (aluInc8 v).2.1 = decide (v.toNat = 0xFF) := by
  have := v.isLt
  rw [show (aluInc8 v).2.1 = (BitVec.ofNat 8 (v.toNat + 1) == 0) from rfl, ofNat_beq_zero, decide_eq_decide]
  omega

theorem aluInc8_half (v : Byte) : (aluInc8 v).2.2 = decide (v.toNat % 16 = 0xF) := rfl

theorem aluDec8_result_toNat (v : Byte) : (aluDec8 v).1.toNat = (v.toNat + 255) % 256 := BitVec.toNat_ofNat ..

theorem aluDec8_zero (v : Byte) : (aluDec8 v).2.1 = decide (v.toNat = 1) := by
  have := v.isLt
  rw [show (aluDec8 v).2.1 = (BitVec.ofNat 8 (v.toNat + 0xFF) == 0) from rfl, ofNat_beq_zero, decide_eq_decide]
  omega

theorem aluDec8_half (v : Byte) : (aluDec8 v).2.2 = decide (v.toNat % 16 = 0) := rfl

/-! How INC and DEC end: Z, N and H as told, C kept, the operand (a register, or the byte at an address) replaced, and
nothing else changed. -/

theorem retire_setZNH_flags (k : Nat) (u : State) (z n h : Bool) :
    (retire k (u.setZNH z n h)).flag .z = z ∧ (retire k (u.setZNH z n h)).flag .n = n ∧
    (retire k (u.setZNH z n h)).flag .h = h ∧ (retire k (u.setZNH z n h)).flag .c = u.flag .c ∧
    (retire k (u.setZNH z n h)).flagsWf :=
  ⟨(retire_flag ..).trans (setZNH_flag u z n h .z), (retire_flag ..).trans (setZNH_flag u z n h .n),
    (retire_flag ..).trans (setZNH_flag u z n h .h), (retire_flag ..).trans (setZNH_flag u z n h .c),
    retire_flagsWf k (setZNH_flagsWf u z n h)⟩

section
variable {s t : State} {z n h : Bool} {i : Instr} {dflt : Nat} {bytes : List Byte}
  (hdflt : ∀ m, (table m i.opcode).tStates = dflt) (hbytes : encode i = bytes)
include hdflt hbytes

theorem setReg8_setZNH_completes {r : Reg8} {x : Byte} {y : Nat} (hx : x.toNat = y)
    (ht : t = retire (instrCycles s.config i) ((s.setReg8 r x).setZNH z n h)) :
    (t.reg8 r).toNat = y ∧ t.flag .z = z ∧ t.flag .n = n ∧ t.flag .h = h ∧ t.flag .c = s.flag .c ∧
    t.flagsWf ∧ SameReg8Outside [r] s t ∧ t.sp = s.sp ∧ UntouchedMemory s t ∧ Retired i dflt s t ∧
    EncodedAs i bytes := by
  subst ht
  obtain ⟨hz, hn, hh, hc, hwf⟩ := retire_setZNH_flags (instrCycles s.config i) (s.setReg8 r x) z n h
  refine ⟨?_, hz, hn, hh, hc.trans (setReg8_flag s r x .c), hwf, fun r' hr' => ?_, ?_,
    untouchedMemory_of_same (fun r' => ?_) ?_, ?_, encodedAs_of_encode hbytes⟩
  · rw [retire_reg8, setZNH_reg8, setReg8_reg8_self, hx]
  · rw [retire_reg8, setZNH_reg8, setReg8_sameReg8Outside s r x r' hr']
  · rw [retire_sp, setZNH_sp, setReg8_sp]
  · rw [retire_array, setZNH_array, setReg8_array]
  · rw [retire_biosMapped, setZNH_biosMapped, setReg8_biosMapped]
  · exact ((setReg8_keeps s r x).trans (setZNH_keeps _ z n h)).retired hdflt

theorem writeByte_setZNH_completes {addr : Word} {v : Byte} (hm : s.memoryWf)
    (ht : t = retire (instrCycles s.config i) ((writeByte (readTrigger addr s) addr v).setZNH z n h)) :
    StoredAt addr v s t ∧ t.biosMapped = overlayAfterRead s addr ∧
    t.flag .z = z ∧ t.flag .n = n ∧ t.flag .h = h ∧ t.flag .c = s.flag .c ∧ t.flagsWf ∧
    SameReg8Outside [] s t ∧ t.sp = s.sp ∧ Retired i dflt s t ∧ EncodedAs i bytes := by
  subst ht
  obtain ⟨hz, hn, hh, hc, hwf⟩ :=
    retire_setZNH_flags (instrCycles s.config i) (writeByte (readTrigger addr s) addr v) z n h
  refine ⟨(writeByte_readTrigger_storedAt addr v hm).congr (fun _ => rfl) (fun r => ?_) ?_, ?_, hz, hn, hh, ?_, hwf,
    fun r _ => ?_, ?_, ?_, encodedAs_of_encode hbytes⟩
  · rw [retire_array, setZNH_array]
  · rw [retire_biosMapped, setZNH_biosMapped]
  · rw [retire_biosMapped, setZNH_biosMapped, writeByte_biosMapped, readTrigger_eq]
    rfl
  · rw [hc, writeByte_flag, readTrigger_flag]
  · rw [retire_reg8, setZNH_reg8, writeByte_reg8, readTrigger_reg8]
  · rw [retire_sp, setZNH_sp, writeByte_sp, readTrigger_sp]
  · exact (((readTrigger_keeps s addr).trans (writeByte_keeps _ addr v)).trans (setZNH_keeps _ z n h)).retired hdflt

end

/-! The register forms (R131, R133). -/

section
variable (r : Reg8) (s : State)

theorem exec_incReg : exec (Instr.incReg r) s = .next (retire (instrCycles s.config (Instr.incReg r))
    ((s.setReg8 r (aluInc8 (s.reg8 r)).1).setZNH (decide ((s.reg8 r).toNat = 0xFF)) false
      (decide ((s.reg8 r).toNat % 16 = 0xF)))) := by
  have hexec : exec (Instr.incReg r) s = complete (instrCycles s.config (Instr.incReg r)) (incReg8 r s) := by
    cases r <;> rfl
  rw [hexec, incReg8, aluInc8_zero, aluInc8_half]
  rfl

theorem exec_decReg : exec (Instr.decReg r) s = .next (retire (instrCycles s.config (Instr.decReg r))
    ((s.setReg8 r (aluDec8 (s.reg8 r)).1).setZNH (decide ((s.reg8 r).toNat = 1)) true
      (decide ((s.reg8 r).toNat % 16 = 0)))) := by
  have hexec : exec (Instr.decReg r) s = complete (instrCycles s.config (Instr.decReg r)) (decReg8 r s) := by
    cases r <;> rfl
  rw [hexec, decReg8, aluDec8_zero, aluDec8_half]
  rfl

end

/-- One more execution, after the others. -/
theorem execTimes_succ {i : Instr} {k : Nat} {s u t : State} (hu : execTimes i k s = .next u)
    (ht : exec i u = .next t) : execTimes i (k + 1) s = .next t := by
  induction k generalizing s with
  | zero =>
    cases hu
    simp only [execTimes, ht]
  | succ k ih =>
    obtain ⟨v, hv⟩ := exec_next i s
    rw [execTimes, hv] at hu ⊢
    exact ih hu

/-- The executions so far give the register's value, and the last one gives Z. -/
theorem execTimes_incReg (r : Reg8) (s : State) (k : Nat) :
    ∃ t, execTimes (Instr.incReg r) k s = .next t ∧ (t.reg8 r).toNat = ((s.reg8 r).toNat + k) % 256 ∧
      (0 < k → (t.flag .z = true ↔ ((s.reg8 r).toNat + k) % 256 = 0)) ∧ t.flag .c = s.flag .c ∧
      SameReg8Outside [r] s t := by
  induction k with
  | zero => exact ⟨s, rfl, (Nat.mod_eq_of_lt (s.reg8 r).isLt).symm, nofun, rfl, fun _ _ => rfl⟩
  | succ k ih =>
    obtain ⟨u, hu, hreg, -, hc, hsame⟩ := ih
    refine ⟨_, execTimes_succ hu (exec_incReg r u), ?_, fun _ => ?_, ?_, fun r' hr' => ?_⟩
    · rw [retire_reg8, setZNH_reg8, setReg8_reg8_self, aluInc8_result_toNat, hreg]
      omega
    · simp only [retire_flag, setZNH_flag, decide_eq_true_iff, hreg]
      omega
    · simp only [retire_flag, setZNH_flag, setReg8_flag, hc]
    · rw [retire_reg8, setZNH_reg8, setReg8_sameReg8Outside u r _ r' hr', hsame r' hr']

/-- Settles O42, by the register form of INC and, for the repetitions, by induction on their number. -/
theorem incRegister : Obligations.IncRegister := fun r s =>
  ⟨⟨_, exec_incReg r s, setReg8_setZNH_completes (fun _ => by cases r <;> rfl) (by cases r <;> rfl)
    (aluInc8_result_toNat _) rfl⟩, execTimes_incReg r s⟩

/-- Settles O43, by the register form of DEC. -/
theorem decRegister : Obligations.DecRegister := fun r s =>
  ⟨_, exec_decReg r s, setReg8_setZNH_completes (fun _ => by cases r <;> rfl) (by cases r <;> rfl)
    (aluDec8_result_toNat _) rfl⟩

/-! The memory forms (R132, R134): the byte at HL is read, and the result is stored over it. -/

section
variable (s : State)

theorem exec_incMemHl : exec .incMemHl s = .next (retire (instrCycles s.config .incMemHl)
    ((writeByte (readTrigger (s.reg16 .hl) s) (s.reg16 .hl) (aluInc8 (s.peek (s.reg16 .hl))).1).setZNH
      (decide ((s.peek (s.reg16 .hl)).toNat = 0xFF)) false (decide ((s.peek (s.reg16 .hl)).toNat % 16 = 0xF)))) := by
  rw [← aluInc8_zero, ← aluInc8_half]
  simp only [exec, execIncMemHl, complete, incMem, readIndirect, writeIndirect, readByte, readTrigger_reg16]

theorem exec_decMemHl : exec .decMemHl s = .next (retire (instrCycles s.config .decMemHl)
    ((writeByte (readTrigger (s.reg16 .hl) s) (s.reg16 .hl) (aluDec8 (s.peek (s.reg16 .hl))).1).setZNH
      (decide ((s.peek (s.reg16 .hl)).toNat = 1)) true (decide ((s.peek (s.reg16 .hl)).toNat % 16 = 0)))) := by
  rw [← aluDec8_zero, ← aluDec8_half]
  simp only [exec, execDecMemHl, complete, decMem, readIndirect, writeIndirect, readByte, readTrigger_reg16]

end

/-- Settles O44, by the memory form of INC. -/
theorem incMemory : Obligations.IncMemory := fun s hm =>
  ⟨_, exec_incMemHl s, writeByte_setZNH_completes (fun _ => rfl) rfl hm rfl⟩

/-- Settles O45, by the memory form of DEC. -/
theorem decMemory : Obligations.DecMemory := fun s hm =>
  ⟨_, exec_decMemHl s, writeByte_setZNH_completes (fun _ => rfl) rfl hm rfl⟩

end Sys2Proof.Machine
end

section
/-! 16-bit increment, decrement and add (42_alu16.md). -/

namespace Sys2Proof.Machine

/-! The ALU functions (R150, R151, R153). -/

theorem aluInc16_toNat (v : Word) : (aluInc16 v).toNat = (v.toNat + 1) % 65536 := BitVec.toNat_ofNat ..

theorem aluDec16_toNat (v : Word) : (aluDec16 v).toNat = (v.toNat + 65535) % 65536 := BitVec.toNat_ofNat ..

theorem aluAdd16_result_toNat (x y : Word) : (aluAdd16 x y).1.toNat = (x.toNat + y.toNat) % 65536 :=
  BitVec.toNat_ofNat ..

theorem aluAdd16_half (x y : Word) :
    (aluAdd16 x y).2.1 = decide (x.toNat % 4096 + y.toNat % 4096 ≥ 4096) := rfl

theorem aluAdd16_carry (x y : Word) : (aluAdd16 x y).2.2 = decide (x.toNat + y.toNat ≥ 65536) := rfl

/-! How an instruction that only writes a pair ends: F, the other registers and memory are kept. -/

section
variable {s t : State} {i : Instr} {dflt : Nat} {bytes : List Byte}
  (hdflt : ∀ m, (table m i.opcode).tStates = dflt) (hbytes : encode i = bytes)
include hdflt hbytes

theorem setReg16_completes {rr : Reg16} {v : Word} {y : Nat} (hv : v.toNat = y)
    (ht : t = retire (instrCycles s.config i) (s.setReg16 rr v)) :
    (t.reg16 rr).toNat = y ∧ t.f = s.f ∧ SameReg8Outside (pairHalves rr) s t ∧ (rr ≠ .sp → t.sp = s.sp) ∧
    UntouchedMemory s t ∧ Retired i dflt s t ∧ EncodedAs i bytes := by
  subst ht
  refine ⟨?_, ?_, fun r hr => ?_, fun hrr => ?_, untouchedMemory_of_same (fun r => ?_) ?_,
    (setReg16_keeps s rr v).retired hdflt, encodedAs_of_encode hbytes⟩
  · rw [retire_reg16, setReg16_reg16_self, hv]
  · rw [retire_f, setReg16_f]
  · rw [retire_reg8, setReg16_sameReg8Outside s rr v r hr]
  · rw [retire_sp, setReg16_sp s v hrr]
  · rw [retire_array, setReg16_array]
  · rw [retire_biosMapped, setReg16_biosMapped]

end

section
variable (rr : Reg16) (s : State)

theorem exec_incPair : exec (Instr.incPair rr) s =
    .next (retire (instrCycles s.config (Instr.incPair rr)) (s.setReg16 rr (aluInc16 (s.reg16 rr)))) := by
  cases rr <;> rfl

theorem exec_decPair : exec (Instr.decPair rr) s =
    .next (retire (instrCycles s.config (Instr.decPair rr)) (s.setReg16 rr (aluDec16 (s.reg16 rr)))) := by
  cases rr <;> rfl

theorem exec_addPair : exec (Instr.addPair rr) s =
    .next (retire (instrCycles s.config (Instr.addPair rr)) (addHl rr s)) := by
  cases rr <;> rfl

end

/-- Settles O46, by the write of the pair. -/
theorem incPair : Obligations.IncPair := fun rr s =>
  ⟨_, exec_incPair rr s, setReg16_completes (fun _ => by cases rr <;> rfl) (by cases rr <;> rfl)
    (aluInc16_toNat _) rfl⟩

/-- Settles O47, by the write of the pair. -/
theorem decPair : Obligations.DecPair := fun rr s =>
  ⟨_, exec_decPair rr s, setReg16_completes (fun _ => by cases rr <;> rfl) (by cases rr <;> rfl)
    (aluDec16_toNat _) rfl⟩

/-! ADD HL,rr writes HL and then N, H and C (R152, R153). -/

section
variable (rr : Reg16) (s : State)

theorem addHl_hl_toNat :
    ((addHl rr s).reg16 .hl).toNat = ((s.reg16 .hl).toNat + (s.reg16 rr).toNat) % 65536 := by
  rw [addHl, setNHC_reg16, setReg16_reg16_self, aluAdd16_result_toNat]

theorem addHl_flags :
    (addHl rr s).flag .z = s.flag .z ∧ (addHl rr s).flag .n = false ∧
    (addHl rr s).flag .h = decide ((s.reg16 .hl).toNat % 4096 + (s.reg16 rr).toNat % 4096 ≥ 4096) ∧
    (addHl rr s).flag .c = decide ((s.reg16 .hl).toNat + (s.reg16 rr).toNat ≥ 65536) := by
  rw [← aluAdd16_half, ← aluAdd16_carry]
  exact ⟨setNHC_flag _ _ _ _ .z, setNHC_flag _ _ _ _ .n, setNHC_flag _ _ _ _ .h, setNHC_flag _ _ _ _ .c⟩

theorem addHl_flagsWf : (addHl rr s).flagsWf := setNHC_flagsWf ..

theorem addHl_sameReg8Outside : SameReg8Outside [.h, .l] s (addHl rr s) := fun r hr => by
  rw [addHl, setNHC_reg8, setReg16_sameReg8Outside s .hl _ r hr]

theorem addHl_sp : (addHl rr s).sp = s.sp := by
  rw [addHl, setNHC_sp, setReg16_sp s _ (rr := .hl) nofun]

theorem addHl_biosMapped : (addHl rr s).biosMapped = s.biosMapped := by
  rw [addHl, setNHC_biosMapped, setReg16_biosMapped]

end

/-- Settles O48, from what the addition leaves in HL, in each flag and elsewhere. -/
theorem addPairToHl : Obligations.AddPairToHl := by
  intro rr s
  obtain ⟨hz, hn, hh, hc⟩ := addHl_flags rr s
  refine ⟨_, exec_addPair rr s, ?_, (retire_flag ..).trans hz, (retire_flag ..).trans hn,
    (retire_flag ..).trans hh, (retire_flag ..).trans hc, retire_flagsWf _ (addHl_flagsWf rr s), fun r hr => ?_, ?_,
    untouchedMemory_of_same (fun r => ?_) ?_, (addHl_keeps rr s).retired fun _ => ?_, encodedAs_of_encode ?_⟩
  · rw [retire_reg16, addHl_hl_toNat]
  · rw [retire_reg8, addHl_sameReg8Outside rr s r hr]
  · rw [retire_sp, addHl_sp]
  · rw [retire_array, addHl_sameMemory rr s r]
  · rw [retire_biosMapped, addHl_biosMapped]
  · cases rr <;> rfl
  · cases rr <;> rfl

end Sys2Proof.Machine
end

section
/-! The rotates of A (43_rotate.md). -/

namespace Sys2Proof.Machine

/-! The ALU functions (R162, R163): the moved-out bit does not overlap the shifted rest, so adding it is a rotation. -/

theorem aluRlc8_result (v : Byte) : (aluRlc8 v).1 = v.rotateLeft 1 := by
  have hv : v.toNat < 256 := v.isLt
  have hdisjoint := Nat.two_pow_add_eq_or_of_lt (i := 1) (b := v.toNat / 128) (by omega) (v.toNat % 128)
  refine BitVec.eq_of_toNat_eq ?_
  calc (aluRlc8 v).1.toNat
    _ = (v.toNat * 2 % 256 + v.toNat / 128) % 256 := BitVec.toNat_ofNat ..
    _ = 2 ^ 1 * (v.toNat % 128) + v.toNat / 128 := by omega
    _ = v.toNat * 2 % 256 ||| v.toNat / 128 := by rw [hdisjoint]; congr 1; omega
    _ = (v.rotateLeft 1).toNat := by simp [BitVec.toNat_rotateLeft, Nat.shiftLeft_eq, Nat.shiftRight_eq_div_pow]

theorem aluRrc8_result (v : Byte) : (aluRrc8 v).1 = v.rotateRight 1 := by
  have hv : v.toNat < 256 := v.isLt
  have hdisjoint := Nat.two_pow_add_eq_or_of_lt (i := 7) (b := v.toNat / 2) (by omega) (v.toNat % 2)
  refine BitVec.eq_of_toNat_eq ?_
  calc (aluRrc8 v).1.toNat
    _ = (v.toNat / 2 + v.toNat % 2 * 128) % 256 := BitVec.toNat_ofNat ..
    _ = 2 ^ 7 * (v.toNat % 2) + v.toNat / 2 := by omega
    _ = v.toNat / 2 ||| v.toNat * 128 % 256 := by rw [hdisjoint, Nat.or_comm]; congr 1; omega
    _ = (v.rotateRight 1).toNat := by simp [BitVec.toNat_rotateRight, Nat.shiftLeft_eq, Nat.shiftRight_eq_div_pow]

theorem aluRlc8_carry (v : Byte) : (aluRlc8 v).2 = v.getLsbD 7 := by
  have hv : v.toNat < 256 := v.isLt
  rw [BitVec.getLsbD, Nat.testBit_eq_decide_div_mod_eq, show (aluRlc8 v).2 = decide (v.toNat / 128 = 1) from rfl,
    decide_eq_decide]
  omega

theorem aluRrc8_carry (v : Byte) : (aluRrc8 v).2 = v.getLsbD 0 := by
  rw [BitVec.getLsbD, Nat.testBit_zero]
  rfl

/-! How a rotate ends: A replaced, Z, N and H clear, C as told, and nothing else changed (R160, R161). -/

theorem retire_setZNHC_flags (k : Nat) (u : State) (z n h c : Bool) :
    (retire k (u.setZNHC z n h c)).flag .z = z ∧ (retire k (u.setZNHC z n h c)).flag .n = n ∧
    (retire k (u.setZNHC z n h c)).flag .h = h ∧ (retire k (u.setZNHC z n h c)).flag .c = c ∧
    (retire k (u.setZNHC z n h c)).flagsWf :=
  ⟨(retire_flag ..).trans (setZNHC_flag u z n h c .z), (retire_flag ..).trans (setZNHC_flag u z n h c .n),
    (retire_flag ..).trans (setZNHC_flag u z n h c .h), (retire_flag ..).trans (setZNHC_flag u z n h c .c),
    retire_flagsWf k (setZNHC_flagsWf u z n h c)⟩

section
variable {s t : State} {i : Instr} {dflt : Nat} {bytes : List Byte}
  (hdflt : ∀ m, (table m i.opcode).tStates = dflt) (hbytes : encode i = bytes)
include hdflt hbytes

theorem setReg8_setZNHC_completes {x : Byte} {c : Bool}
    (ht : t = retire (instrCycles s.config i) ((s.setReg8 .a x).setZNHC false false false c)) :
    t.a = x ∧ t.flag .c = c ∧ t.flag .z = false ∧ t.flag .n = false ∧ t.flag .h = false ∧ t.flagsWf ∧
    SameReg8Outside [.a] s t ∧ t.sp = s.sp ∧ UntouchedMemory s t ∧ Retired i dflt s t ∧ EncodedAs i bytes := by
  subst ht
  obtain ⟨hz, hn, hh, hc, hwf⟩ :=
    retire_setZNHC_flags (instrCycles s.config i) (s.setReg8 .a x) false false false c
  refine ⟨?_, hc, hz, hn, hh, hwf, fun r hr => ?_, ?_, untouchedMemory_of_same (fun r => ?_) ?_, ?_,
    encodedAs_of_encode hbytes⟩
  · rw [retire_a, setZNHC_a]
    rfl
  · rw [retire_reg8, setZNHC_reg8, setReg8_sameReg8Outside s .a x r hr]
  · rw [retire_sp, setZNHC_sp, setReg8_sp]
  · rw [retire_array, setZNHC_array, setReg8_array]
  · rw [retire_biosMapped, setZNHC_biosMapped, setReg8_biosMapped]
  · exact ((setReg8_keeps s .a x).trans (setZNHC_keeps _ false false false c)).retired hdflt

end

theorem exec_rlca (s : State) : exec .rlca s = .next (retire (instrCycles s.config .rlca)
    ((s.setReg8 .a (s.a.rotateLeft 1)).setZNHC false false false (s.a.getLsbD 7))) := by
  rw [← aluRlc8_result, ← aluRlc8_carry]
  rfl

theorem exec_rrca (s : State) : exec .rrca s = .next (retire (instrCycles s.config .rrca)
    ((s.setReg8 .a (s.a.rotateRight 1)).setZNHC false false false (s.a.getLsbD 0))) := by
  rw [← aluRrc8_result, ← aluRrc8_carry]
  rfl

/-- Settles O49: the sum of RLCA's ALU function is the rotation, and its carry is bit 7. -/
theorem rotateLeftCircular : Obligations.RotateLeftCircular := fun s =>
  ⟨_, exec_rlca s, setReg8_setZNHC_completes (fun _ => rfl) rfl rfl⟩

/-- Settles O50: the sum of RRCA's ALU function is the rotation, and its carry is bit 0. -/
theorem rotateRightCircular : Obligations.RotateRightCircular := fun s =>
  ⟨_, exec_rrca s, setReg8_setZNHC_completes (fun _ => rfl) rfl rfl⟩

end Sys2Proof.Machine
end

section
/-! Loads and stores (44_loads.md). -/

namespace Sys2Proof.Machine

/-- The byte is read before A is written, and the read's trigger acts in between (R173, R174). -/
theorem loadAIndirect_eq (rr : Reg16) (s : State) :
    loadAIndirect rr s = (readTrigger (s.reg16 rr) s).setReg8 .a (s.peek (s.reg16 rr)) := rfl

/-! How an instruction that writes one register, stores one byte or loads A from memory ends: the write is made, the
read's trigger has acted where there was a read, and nothing else changed. -/

section
variable {s t : State} {i : Instr} {dflt : Nat} {bytes : List Byte}
  (hdflt : ∀ m, (table m i.opcode).tStates = dflt) (hbytes : encode i = bytes)
include hdflt hbytes

theorem setReg8_completes {r : Reg8} {v : Byte} (ht : t = retire (instrCycles s.config i) (s.setReg8 r v)) :
    t.reg8 r = v ∧ t.f = s.f ∧ SameReg8Outside [r] s t ∧ t.sp = s.sp ∧ UntouchedMemory s t ∧ Retired i dflt s t ∧
    EncodedAs i bytes := by
  subst ht
  refine ⟨?_, ?_, fun r' hr' => ?_, ?_, untouchedMemory_of_same (fun r' => ?_) ?_,
    (setReg8_keeps s r v).retired hdflt, encodedAs_of_encode hbytes⟩
  · rw [retire_reg8, setReg8_reg8_self]
  · rw [retire_f, setReg8_f]
  · rw [retire_reg8, setReg8_sameReg8Outside s r v r' hr']
  · rw [retire_sp, setReg8_sp]
  · rw [retire_array, setReg8_array]
  · rw [retire_biosMapped, setReg8_biosMapped]

theorem writeByte_completes {addr : Word} {v : Byte} (hm : s.memoryWf)
    (ht : t = retire (instrCycles s.config i) (writeByte s addr v)) :
    StoredAt addr v s t ∧ t.biosMapped = s.biosMapped ∧ SameRegisters s t ∧ Retired i dflt s t ∧
    EncodedAs i bytes := by
  subst ht
  refine ⟨(writeByte_storedAt addr v hm).congr (fun _ => rfl) (retire_array _ _) (retire_biosMapped _ _), ?_,
    ⟨fun r _ => ?_, ?_, ?_⟩, (writeByte_keeps s addr v).retired hdflt, encodedAs_of_encode hbytes⟩
  · rw [retire_biosMapped, writeByte_biosMapped]
  · rw [retire_reg8, writeByte_reg8]
  · rw [retire_sp, writeByte_sp]
  · rw [retire_f, writeByte_f]

theorem loadAIndirect_completes {rr : Reg16} (ht : t = retire (instrCycles s.config i) (loadAIndirect rr s)) :
    t.a = s.peek (s.reg16 rr) ∧ t.biosMapped = overlayAfterRead s (s.reg16 rr) ∧ SameMemory s t ∧
    (∀ addr, t.peek addr = (s.withOverlay t.biosMapped).peek addr) ∧
    t.f = s.f ∧ SameReg8Outside [.a] s t ∧ t.sp = s.sp ∧ Retired i dflt s t ∧ EncodedAs i bytes := by
  subst ht
  have hmem : SameMemory s (retire (instrCycles s.config i) (loadAIndirect rr s)) := fun r => by
    rw [retire_array, loadAIndirect_sameMemory rr s r]
  refine ⟨?_, ?_, hmem, peek_congr (s.withOverlay _) _ (fun r => ?_) rfl, ?_, fun r hr => ?_, ?_,
    (loadAIndirect_keeps rr s).retired hdflt, encodedAs_of_encode hbytes⟩
  · exact (retire_a ..).trans (setReg8_reg8_self _ .a _)
  · rw [retire_biosMapped, loadAIndirect_eq, setReg8_biosMapped, readTrigger_eq]
    rfl
  · rw [hmem r, withOverlay_array]
  · rw [retire_f, loadAIndirect_eq, setReg8_f, readTrigger_f]
  · rw [retire_reg8, loadAIndirect_eq, setReg8_sameReg8Outside _ .a _ r hr, readTrigger_reg8]
  · rw [retire_sp, loadAIndirect_eq, setReg8_sp, readTrigger_sp]

end

/-! The immediate loads, each with its bytes in stream order (R170, R175, R92). -/

theorem exec_loadPair (rr : Reg16) (v : Word) (s : State) : exec (Instr.loadPair rr v) s =
    .next (retire (instrCycles s.config (Instr.loadPair rr v)) (s.setReg16 rr v)) := by
  cases rr <;> rfl

theorem exec_loadReg (r : Reg8) (v : Byte) (s : State) : exec (Instr.loadReg r v) s =
    .next (retire (instrCycles s.config (Instr.loadReg r v)) (s.setReg8 r v)) := by
  cases r <;> rfl

theorem encode_loadPair (rr : Reg16) (v : Word) :
    encode (Instr.loadPair rr v) = [(Instr.loadPair rr v).opcode, lo8 v, hi8 v] := by
  cases rr <;> rfl

/-- Settles O51, by the write of the pair. -/
theorem loadPairImmediate : Obligations.LoadPairImmediate := fun rr lo hi s => by
  have hbytes := encode_loadPair rr (concat hi lo)
  rw [lo8_concat, hi8_concat] at hbytes
  exact ⟨_, exec_loadPair rr (concat hi lo) s, setReg16_completes (fun _ => by cases rr <;> rfl)
    (hbytes.trans (by cases rr <;> rfl)) (concat_toNat hi lo) rfl⟩

/-- Settles O54, by the write of the register. -/
theorem loadRegisterImmediate : Obligations.LoadRegisterImmediate := fun r v s =>
  ⟨_, exec_loadReg r v s, setReg8_completes (fun _ => by cases r <;> rfl) (by cases r <;> rfl) rfl⟩

/-! The loads and stores through a pair, whose handlers are `loadAIndirect` and `writeByte` (R171 to R174, R176). -/

/-- Settles O52, by the byte stored at the pair's address. -/
theorem storeAIndirect_stores : Obligations.StoreAIndirect := fun _ hm =>
  ⟨⟨_, rfl, writeByte_completes (fun _ => rfl) rfl hm rfl⟩, ⟨_, rfl, writeByte_completes (fun _ => rfl) rfl hm rfl⟩⟩

/-- Settles O53, by the read at the pair's address and the write of A. -/
theorem loadAIndirect_loads : Obligations.LoadAIndirect := fun _ =>
  ⟨⟨_, rfl, loadAIndirect_completes (fun _ => rfl) rfl rfl⟩, ⟨_, rfl, loadAIndirect_completes (fun _ => rfl) rfl rfl⟩⟩

/-- Settles O55, by the byte stored at HL. -/
theorem storeImmediate : Obligations.StoreImmediate := fun _ _ hm =>
  ⟨_, rfl, writeByte_completes (fun _ => rfl) rfl hm rfl⟩

end Sys2Proof.Machine
end

section
/-! `pc` under a step, NOP and STOP (45_control.md). -/

namespace Sys2Proof.Machine

/-- Settles O18: `pc` moves past the opcode and its operands in the fetch; no handler and neither ending writes it. -/
theorem pcAdvancesByLength : Obligations.PcAdvancesByLength := by
  intro s t hrun h
  cases stepEffect_of_step h with
  | halted r hhalt => cases hrun.symm.trans hhalt
  | unknown u _ _ hop hpc =>
    have hlen := length_of_no_build ((build_eq_none_iff s.config.stopLength _).2 hop)
    rw [raiseFault_pc, hpc, hlen]
    rfl
  | retired ops i u v _ _ _ hops hpc _ hv =>
    have hlen : 1 + ops.length = (table s.config.stopLength (s.peek s.pc)).length := by
      rw [hops, Nat.add_sub_cancel' (table_length_bounds _ _).1]
    rw [retire_pc, hv.pc, hpc, ← hlen, BitVec.ofNat_add, BitVec.add_assoc]
    rfl

/-! NOP (R190). -/

theorem retire_of_ne_zero {n : Nat} (h : n ≠ 0) (s : State) : retire n s = { s with cycles := s.cycles + n } :=
  if_neg h

/-- NOP's handler leaves the state as it is; only `retire` acts. -/
theorem exec_nop (s : State) : exec .nop s = .next (retire (instrCycles s.config .nop) s) := rfl

theorem step_of_nop {s : State} (hrun : s.run = .running) (hop : s.peek s.pc = 0x00#8) :
    step s = exec .nop (afterFetch s 1) :=
  step_eq_exec (rest := [s.peek (s.pc + 1), s.peek (s.pc + 2)]) hrun (hop ▸ rfl)

/-- Settles O40: `retire` adds the cost, which with real costs is no STOP signal. -/
theorem nopCompletes : Obligations.NopCompletes := by
  refine ⟨fun s => ?_, fun s hc hrun hop => ⟨?_, rfl⟩⟩
  · have hregs : SameRegisters s (retire (instrCycles s.config .nop) s) :=
      ⟨fun r _ => retire_reg8 s _ r, retire_sp s _, retire_f s _⟩
    exact ⟨_, exec_nop s, (HandlerKeeps.refl s).retired fun _ => rfl, hregs,
      untouchedMemory_of_same (retire_array s _) (retire_biosMapped s _), encodedAs_of_encode rfl⟩
  · have hcost : instrCycles (afterFetch s 1).config .nop ≠ 0 := by
      have := four_le_instrCycles (s := afterFetch s 1) (i := .nop) hc nofun
      omega
    rw [step_of_nop hrun hop, exec_nop, retire_of_ne_zero hcost]
    rfl

/-! STOP (R191). -/

/-- STOP's count is 0, so `retire` halts the core and adds nothing to `cycles`. -/
theorem exec_stop (ignored : Option Byte) (s : State) :
    exec (.stop ignored) s = .next { s with run := .halted .stop } := rfl

/-- The byte 0x10 decodes to STOP in both lengths, the ignored byte read in the longer one. -/
theorem decode_stop (n : StopLength) (x y : Byte) : ∃ ignored rest,
    decode n [0x10#8, x, y] = .ok (.stop ignored, rest) ∧
    (encode (.stop ignored)).length = (table n 0x10#8).length := by
  cases n with
  | one => exact ⟨none, [x, y], rfl, rfl⟩
  | two => exact ⟨some x, [y], rfl, rfl⟩

theorem step_of_stop {s : State} (hrun : s.run = .running) (hop : s.peek s.pc = 0x10#8) :
    step s = .next { afterFetch s (table s.config.stopLength 0x10#8).length with run := .halted .stop } ∧
    stepResult s = .stopped := by
  obtain ⟨ignored, rest, hdec, hlen⟩ := decode_stop s.config.stopLength (s.peek (s.pc + 1)) (s.peek (s.pc + 2))
  rw [← hop] at hdec
  exact ⟨by rw [step_eq_exec hrun hdec, exec_stop, hlen], (stepResult_of_decode hdec hrun).trans (if_pos rfl)⟩

/-- Settles O41: the step runs STOP's handler on what the fetch leaves, and a halted core stays as it is. -/
theorem stopCompletes : Obligations.StopCompletes := by
  refine ⟨exec_stop, fun _ => encodedAs_of_encode rfl, encodedAs_of_encode rfl, fun s hrun hop => ?_⟩
  obtain ⟨hstep, hresult⟩ := step_of_stop hrun hop
  refine ⟨_, hstep, ?_, hresult, step_of_halted rfl, stepResult_of_halted rfl, rfl⟩
  cases s.config.stopLength <;> rfl

end Sys2Proof.Machine
end

section
/-! An opcode without a handler, and the images that construction refuses (60_exceptions.md). -/

namespace Sys2Proof.Machine

/-- Settles O14: the fetch finds no handler, and the error writes `run` alone on what the fetch leaves. -/
theorem unknownOpcodeHalts : Obligations.UnknownOpcodeHalts := fun _ hrun hadm =>
  ⟨step_of_not_admitted hrun hadm, stepResult_of_unknown hrun (fetchInstr_of_not_admitted hadm),
    stepTrace_of_not_admitted hadm⟩

/-! Construction (R202, R205, R230): the two checks, and the core that is built when both images are accepted. -/

theorem construct_of_bios_error {cfg : Config} {ram : RamImage} {images : Images} {e : Fault}
    (hbios : biosContents images = .error e) : construct cfg ram images = .error e := by
  simp only [construct, hbios]

theorem construct_of_rom_error {cfg : Config} {ram : RamImage} {images : Images} {bios : Memory} {e : Fault}
    (hbios : biosContents images = .ok bios) (hrom : romContents cfg images.romImage = .error e) :
    construct cfg ram images = .error e := by
  simp only [construct, hbios, hrom]

/-- The core with its arrays filled and the overlay set (R230, R231), before `reset()` sets the registers. -/
def loadedCore (cfg : Config) (ram : RamImage) (mapped : Bool) (bios rom : Memory) : State :=
  { State.reset with
    bios := bios
    rom := rom
    vram := ramContents cfg 8192 ram.vram
    eram := ramContents cfg 8192 ram.eram
    wram := ramContents cfg 8192 ram.wram
    oam := ramContents cfg 256 ram.oam
    hram := ramContents cfg 128 ram.hram
    biosMapped := mapped
    config := cfg }

theorem construct_of_contents {cfg : Config} {ram : RamImage} {images : Images} {bios rom : Memory}
    (hbios : biosContents images = .ok bios) (hrom : romContents cfg images.romImage = .ok rom) :
    construct cfg ram images = .ok (resetCore (loadedCore cfg ram images.hasBios bios rom)) := by
  simp only [construct, hbios, hrom, loadedCore]

theorem romContents_of_refuse {cfg : Config} {image : List Byte} (hlen : 32768 < image.length)
    (hpolicy : cfg.romOversize = .refuse) : romContents cfg image = .error (.romTooLarge image.length) :=
  if_pos ⟨hlen, hpolicy⟩

theorem romContents_of_truncate {cfg : Config} (image : List Byte) (hpolicy : cfg.romOversize = .truncate) :
    romContents cfg image = .ok (Memory.ofImage 32768 image) :=
  if_neg fun ⟨_, hrefuse⟩ => absurd (hpolicy.symm.trans hrefuse) nofun

/-! The invariant after construction: every array that is loaded is in canonical form, and `reset()` sets the rest. -/

theorem biosContents_wf {images : Images} {bios : Memory} (h : biosContents images = .ok bios) :
    Memory.wf 256 bios = true := by
  cases images with
  | none => cases h; rfl
  | rom _ => cases h; rfl
  | biosRom image _ =>
    rw [biosContents] at h
    split at h
    · cases h; exact ofImage_wf 256 image
    · cases h

theorem ramContents_wf (cfg : Config) (size : Nat) (image : List Byte) :
    Memory.wf size (ramContents cfg size image) = true := by
  unfold ramContents
  split
  · rfl
  · exact ofImage_wf size image

theorem loadedCore_memoryWf (cfg : Config) (ram : RamImage) (mapped : Bool) {bios rom : Memory}
    (hbios : Memory.wf 256 bios = true) (hrom : Memory.wf 32768 rom = true) :
    (loadedCore cfg ram mapped bios rom).memoryWf
  | .bios => hbios
  | .rom => hrom
  | .vram | .eram | .wram | .oam | .hram => ramContents_wf cfg _ _

@[simp] theorem resetCore_array (s : State) (r : Region) : (resetCore s).array r = s.array r := by
  cases r <;> rfl

/-- `reset()` masks F and makes the core Running, so the arrays alone decide whether the invariant holds after it. -/
theorem resetCore_inv {s : State} (hm : s.memoryWf) : (resetCore s).Inv :=
  ⟨keeps_of_array (resetCore_array s) hm, writeF_flagsWf s s.config.resetRegs.f, haltWf_of_running rfl⟩

/-- Settles O6: the BIOS image is checked first and then the ROM image, and under the truncate policy the ROM holds
the first 32768 bytes. -/
theorem constructionChecksImages : Obligations.ConstructionChecksImages := by
  refine ⟨fun cfg ram bios rom hlen => ?_, fun cfg ram images bios hbios hlen hpolicy => ?_,
    fun cfg ram images bios hbios _ hpolicy => ?_⟩
  · exact construct_of_bios_error (if_neg hlen)
  · exact construct_of_rom_error hbios (romContents_of_refuse hlen hpolicy)
  · have hmem := loadedCore_memoryWf cfg ram images.hasBios (biosContents_wf hbios)
      (ofImage_wf 32768 images.romImage)
    exact ⟨_, construct_of_contents hbios (romContents_of_truncate images.romImage hpolicy), resetCore_inv hmem,
      rfl, rfl, fun i => read_ofImage 32768 i images.romImage⟩

end Sys2Proof.Machine
end

section
/-! `reset()`, `disable_bios()` and the core that a constructor gives (70_reset_and_hazards.md). -/

namespace Sys2Proof.Machine

/-! What the addresses below 0x8000 read as, with and without the overlay (20_memory.md R51 to R53). -/

theorem peek_bios {s : State} {a : Word} (hmapped : s.biosMapped = true) (h : a.toNat < 0x100) :
    s.peek a = Memory.read s.bios a.toNat :=
  peek_of_cell (r := .bios) (by rw [decodeAddr_low _ (by omega), if_pos hmapped])

theorem peek_above_bios {s : State} {a : Word} (h : 0x100 ≤ a.toNat) (h' : a.toNat < 0x8000) :
    s.peek a = Memory.read s.rom a.toNat :=
  peek_of_cell (r := .rom) (decodeAddr_rom _ h (by omega))

theorem peek_rom_of_unmapped {s : State} {a : Word} (hmapped : s.biosMapped = false) (h : a.toNat < 0x8000) :
    s.peek a = Memory.read s.rom a.toNat := by
  rcases Nat.lt_or_ge a.toNat 0x100 with hlow | hhigh
  · exact peek_of_cell (r := .rom) (by rw [decodeAddr_low _ (by omega), hmapped]; rfl)
  · exact peek_above_bios hhigh h

/-- The overlay covers the lowest 256 addresses only. -/
theorem decodeAddr_overlay_irrelevant (mapped mapped' : Bool) {a : Word} (h : 0x100 ≤ a.toNat) :
    decodeAddr mapped a = decodeAddr mapped' a := by
  simp only [decodeAddr_arith, if_neg (show ¬ a.toNat < 0x100 by omega)]

/-! `disable_bios()` (R242). -/

theorem disableBios_eq_self {s : State} (h : s.biosMapped = false) : disableBios s = s := by
  unfold disableBios
  rw [← h]

theorem disableBios_peek_above_bios (s : State) {a : Word} (h : 0x100 ≤ a.toNat) :
    (disableBios s).peek a = s.peek a := by
  simp only [State.peek, decodeAddr_overlay_irrelevant (disableBios s).biosMapped s.biosMapped h, disableBios_array]

/-- Settles O34: without the overlay the lowest addresses name ROM cells, and the others never depended on it. -/
theorem disableBiosUncoversRom : Obligations.DisableBiosUncoversRom := fun s =>
  ⟨rfl, disableBios_eq_self, disableBios_array s, ⟨fun r _ => disableBios_reg8 s r, rfl, rfl⟩, rfl, rfl, rfl,
    fun _ h => peek_rom_of_unmapped (s := disableBios s) rfl (by omega), fun _ => disableBios_peek_above_bios s⟩

/-! `reset()` (R234). -/

@[simp] theorem resetCore_peek (s : State) (addr : Word) : (resetCore s).peek addr = s.peek addr :=
  peek_congr s _ (resetCore_array s) rfl addr

theorem resetCore_flagsWf (s : State) : (resetCore s).flagsWf := writeF_flagsWf s s.config.resetRegs.f

/-- Under the default `RESET_REGS` every register is zero after `reset()`. -/
theorem resetCore_registers_of_zero {s : State} (h : s.config.resetRegs = ResetRegs.zero) :
    (∀ r, (resetCore s).reg8 r = 0) ∧ (resetCore s).f = 0 ∧ (resetCore s).sp = 0 ∧ (resetCore s).pc = 0 := by
  unfold resetCore
  rw [h]
  exact ⟨fun r => by cases r <;> rfl, rfl, rfl, rfl⟩

/-- Settles O3: `reset()` writes the registers, `cycles` and `run`, and a read depends on none of them. -/
theorem hostResetRestartsCore : Obligations.HostResetRestartsCore := fun s =>
  ⟨⟨rfl, rfl, rfl, rfl, rfl, rfl, rfl, rfl, rfl, rfl⟩, resetCore_registers_of_zero, resetCore_flagsWf s, rfl, rfl,
    rfl, rfl, resetCore_array s, resetCore_peek s⟩

/-! The core that a constructor gives, when it accepts the images (R230, R231). -/

theorem biosContents_of_length {bios : List Byte} (rom : List Byte) (h : bios.length = 256) :
    biosContents (.biosRom bios rom) = .ok (Memory.ofImage 256 bios) :=
  if_pos h

/-- An image that fits is loaded under either policy. -/
theorem romContents_of_fits (cfg : Config) {image : List Byte} (h : image.length ≤ 32768) :
    romContents cfg image = .ok (Memory.ofImage 32768 image) :=
  if_neg fun ⟨hlong, _⟩ => absurd hlong (by omega)

/-- An image that fits is read whole, zero padded. -/
theorem read_ofImage_of_fits {size : Nat} {image : List Byte} (h : image.length ≤ size) (i : Nat) :
    Memory.read (Memory.ofImage size image) i = image.getD i 0 := by
  rw [read_ofImage, List.take_of_length_le h]

/-- Under `RAM_INIT` = zero every array that a write can reach is empty after construction. -/
theorem loadedCore_writable_array {cfg : Config} (ram : RamImage) (mapped : Bool) (bios rom : Memory)
    (hzero : cfg.ramInit = .zero) {r : Region} (hw : regionWritable r = true) :
    (loadedCore cfg ram mapped bios rom).array r = [] := by
  have hempty (size : Nat) (image : List Byte) : ramContents cfg size image = [] := by
    rw [ramContents, hzero]
  cases r with
  | bios | rom => cases hw
  | vram | eram | wram | oam | hram => exact hempty _ _

/-- Under `RAM_INIT` = zero an address from 0x8000 on reads zero: it names a cell of an empty array, or none. -/
theorem loadedCore_peek_ram {cfg : Config} (ram : RamImage) (mapped : Bool) (bios rom : Memory)
    (hzero : cfg.ramInit = .zero) {addr : Word} (h : 0x8000 ≤ addr.toNat) :
    (loadedCore cfg ram mapped bios rom).peek addr = 0 := by
  by_cases hwr : writableAddr addr
  · obtain ⟨r, i, hd, hw⟩ := (writableAddr_iff mapped addr).1 hwr
    rw [peek_of_cell hd, loadedCore_writable_array ram mapped bios rom hzero hw]
    rfl
  · unfold writableAddr at hwr
    exact peek_of_ne_cell (decodeAddr_ne_cell _ (by omega) (by omega))

/-- Settles O4: the image fits, so it is loaded whole, and without the overlay every address below 0x8000 reads it. -/
theorem constructionLoadsRomImage : Obligations.ConstructionLoadsRomImage := by
  intro cfg ram image hlen
  have hbios : biosContents (.rom image) = .ok [] := rfl
  have hread := read_ofImage_of_fits hlen
  have hmem := loadedCore_memoryWf cfg ram false (biosContents_wf hbios) (ofImage_wf 32768 image)
  refine ⟨_, construct_of_contents hbios (romContents_of_fits cfg hlen), resetCore_inv hmem, rfl, rfl, rfl, rfl, rfl,
    hread, fun _ => rfl, fun hzero addr h => ?_, fun addr h => ?_⟩
  · rw [resetCore_peek]
    exact loadedCore_peek_ram ram _ _ _ hzero h
  · rw [peek_rom_of_unmapped rfl h]
    exact hread _

/-- Settles O5: both images fit, and the overlay shows the BIOS array below 0x0100 and the ROM array above it. -/
theorem constructionMapsBios : Obligations.ConstructionMapsBios := by
  intro cfg ram bios image hbiosLen hlen
  have hbios := biosContents_of_length image hbiosLen
  have hmem := loadedCore_memoryWf cfg ram true (biosContents_wf hbios) (ofImage_wf 32768 image)
  refine ⟨_, construct_of_contents hbios (romContents_of_fits cfg hlen), resetCore_inv hmem, rfl,
    fun addr h => ?_, fun addr h h' => ?_⟩
  · rw [peek_bios rfl h]
    exact read_ofImage_of_fits hbiosLen.le _
  · rw [peek_above_bios h h']
    exact read_ofImage_of_fits hlen _

end Sys2Proof.Machine
end
